-- ==== Sys2Proof/Word.lean ====
section
/-! DEFINITION. The byte, and the two write ports a byte can go to (spec 20_memory.md R50, R52). -/

namespace Sys2Proof

/-- Every port access is a write of exactly 8 bits (R52). -/
abbrev Byte := BitVec 8

/-- The host-visible write ports (R50). `stereo` exists only on a variant with `HAS_STEREO`; whether
the write to it has a meaning is decided by the meaning of `STEREO` (R101), not here. -/
inductive Port where
  | main
  | stereo
deriving DecidableEq, Repr

end Sys2Proof
end

