-- ==== Sys2Proof/Syntax.lean ====
section
/-! DEFINITION. The instructions: one constructor per row of spec/opcode_table.json. The operands are the
row's bit fields, those the core ignores among them, so that a byte and its term say the same (log 17). -/

namespace Sys2Proof

/-- The bytes the host writes, by class (spec 30_encoding.md R70 to R72, R81). -/
inductive Instr where
  /-- `LATCH.T0F d`: tone 0 period, low 4 bits (R92). -/
  | latchT0F (d : BitVec 4)
  /-- `LATCH.T0A d`: tone 0 attenuation (R93). -/
  | latchT0A (d : BitVec 4)
  /-- `LATCH.T1F d`: tone 1 period, low 4 bits (R94). -/
  | latchT1F (d : BitVec 4)
  /-- `LATCH.T1A d`: tone 1 attenuation (R95). -/
  | latchT1A (d : BitVec 4)
  /-- `LATCH.T2F d`: tone 2 period, low 4 bits (R96). -/
  | latchT2F (d : BitVec 4)
  /-- `LATCH.T2A d`: tone 2 attenuation (R97). -/
  | latchT2A (d : BitVec 4)
  /-- `LATCH.NCTL d`: noise control; `d[3]` is ignored (R98, R78). -/
  | latchNctl (d : BitVec 4)
  /-- `LATCH.NATT d`: noise attenuation (R99). -/
  | latchNatt (d : BitVec 4)
  /-- `DATA h`: high 6 bits of the last-latched period; `x`, the byte's bit 6, is ignored (R100, R78). -/
  | data (x : BitVec 1) (h : BitVec 6)
  /-- `STEREO m`: the stereo mask, on port `STEREO` (R101). -/
  | stereo (m : BitVec 8)
deriving DecidableEq, Repr

end Sys2Proof
end

