-- ==== Sys2Proof/Decode.lean ====
section
/-! DEFINITION. The decoder, the encoder and the opcode table (spec 30_encoding.md). `decode` is total: no byte
value is illegal on either port (R79). `decodeBytes` rejects by name an access that is not one byte (R52). -/

namespace Sys2Proof

/-- Bits 6:4 of a latch byte, the register index `r` (R70). -/
def latchIndex (b : Byte) : BitVec 3 := b.extractLsb' 4 3

/-- Bits 3:0 of a latch byte, the data `d` (R70). -/
def latchData (b : Byte) : BitVec 4 := b.extractLsb' 0 4

/-- Bits 5:0 of a data byte, the data `h` (R71). -/
def dataHigh (b : Byte) : BitVec 6 := b.extractLsb' 0 6

/-- Bit 6 of a data byte, which is ignored (R71, R78). -/
def dataIgnored (b : Byte) : BitVec 1 := b.extractLsb' 6 1

/-- The latch row that register index `r` selects (R74, R90). -/
def decodeLatch (r : BitVec 3) (d : BitVec 4) : Instr :=
  match r.toNat with
  | 0 => .latchT0F d
  | 1 => .latchT0A d
  | 2 => .latchT1F d
  | 3 => .latchT1A d
  | 4 => .latchT2F d
  | 5 => .latchT2A d
  | 6 => .latchNctl d
  | _ => .latchNatt d

/-- A byte written to `MAIN`: bit 7 alone tells a latch byte from a data byte (R73). -/
def decodeMain (b : Byte) : Instr :=
  if b.getLsbD 7 then decodeLatch (latchIndex b) (latchData b) else .data (dataIgnored b) (dataHigh b)

/-- The instruction a byte written to a port is (R80). -/
def decode (p : Port) (b : Byte) : Instr :=
  match p with
  | .main => decodeMain b
  | .stereo => .stereo b

/-- Why a host access is no write at all: every port access is exactly one byte (R52). -/
inductive DecodeError where
  /-- No byte. -/
  | noByte
  /-- More than one byte: no wider access exists. -/
  | widerThanOneByte
deriving DecidableEq, Repr

/-- The decoder on any list of bytes. -/
def decodeBytes (p : Port) : List Byte → Except DecodeError Instr
  | [] => .error .noByte
  | [b] => .ok (decode p b)
  | _ :: _ :: _ => .error .widerThanOneByte

/-- A latch byte `1rrrdddd` (R70). -/
def latchByte (r : BitVec 3) (d : BitVec 4) : Byte := (1#1 ++ r) ++ d

/-- The port and the byte of an instruction (R81). -/
def encode : Instr → Port × Byte
  | .latchT0F d => (.main, latchByte 0 d)
  | .latchT0A d => (.main, latchByte 1 d)
  | .latchT1F d => (.main, latchByte 2 d)
  | .latchT1A d => (.main, latchByte 3 d)
  | .latchT2F d => (.main, latchByte 4 d)
  | .latchT2A d => (.main, latchByte 5 d)
  | .latchNctl d => (.main, latchByte 6 d)
  | .latchNatt d => (.main, latchByte 7 d)
  | .data x h => (.main, (0#1 ++ x) ++ h)
  | .stereo m => (.stereo, m)

/-- One row of spec/opcode_table.json: the bytes `b` on `port` with `b & mask = pattern`. -/
structure OpRow where
  mnemonic : String
  port : Port
  mask : Byte
  pattern : Byte
deriving DecidableEq, Repr

/-- spec/opcode_table.json, its `match` and `mask` columns. -/
def opcodeTable : List OpRow :=
  [⟨"LATCH.T0F", .main, 0xF0, 0x80⟩, ⟨"LATCH.T0A", .main, 0xF0, 0x90⟩,
   ⟨"LATCH.T1F", .main, 0xF0, 0xA0⟩, ⟨"LATCH.T1A", .main, 0xF0, 0xB0⟩,
   ⟨"LATCH.T2F", .main, 0xF0, 0xC0⟩, ⟨"LATCH.T2A", .main, 0xF0, 0xD0⟩,
   ⟨"LATCH.NCTL", .main, 0xF0, 0xE0⟩, ⟨"LATCH.NATT", .main, 0xF0, 0xF0⟩,
   ⟨"DATA", .main, 0x80, 0x00⟩, ⟨"STEREO", .stereo, 0x00, 0x00⟩]

/-- A byte written to a port matches a row (R80). -/
def OpRow.matchesWrite (row : OpRow) (p : Port) (b : Byte) : Bool :=
  decide (row.port = p) && decide (b &&& row.mask = row.pattern)

/-- The name the spec gives an instruction's row (R81). -/
def Instr.mnemonic : Instr → String
  | .latchT0F _ => "LATCH.T0F"
  | .latchT0A _ => "LATCH.T0A"
  | .latchT1F _ => "LATCH.T1F"
  | .latchT1A _ => "LATCH.T1A"
  | .latchT2F _ => "LATCH.T2F"
  | .latchT2A _ => "LATCH.T2A"
  | .latchNctl _ => "LATCH.NCTL"
  | .latchNatt _ => "LATCH.NATT"
  | .data _ _ => "DATA"
  | .stereo _ => "STEREO"

/-- The port and byte that a word of the table's numbering stands for. The table gives a row no bit that
tells the port, so the model numbers it: bits 7:0 are the byte, and a second byte, if the word has one, is
the port (0 `MAIN`, 1 `STEREO`, no other value). A word of no bits at all is the one row that fixes no bit,
`STEREO` (log 4). -/
def tableWrite (nbits w : Nat) : Option (Port × Byte) :=
  if nbits = 0 then some (.stereo, 0)
  else
    let v := w % 2 ^ nbits
    match v / 256 with
    | 0 => some (.main, BitVec.ofNat 8 v)
    | 1 => some (.stereo, BitVec.ofNat 8 v)
    | _ => none

/-- The instruction the decoder reads from a word of the table's numbering (log 4). -/
def decodeTableWord (nbits w : Nat) : Option Instr :=
  match tableWrite nbits w with
  | some (p, b) => some (decode p b)
  | none => none

end Sys2Proof
end

