-- ==== Sys2Proof/Config.lean ====
section
/-! DEFINITION. The configuration record `cfg` of spec 00_scope.md R6 and the two test variants of
spec 95_test_vectors.md section 0. A record may be illegal here: `construct` is what checks it (R7, R196). -/

namespace Sys2Proof

/-- What period 0 counts as (R6, R110). -/
inductive ZeroPeriodPolicy where
  | treatAsMaximum
  | treatAsOne
deriving DecidableEq, Repr

/-- What a frequency latch byte does to the high 6 bits of the period (R6, R91). -/
inductive LatchFreqPolicy where
  | preserve
  | zeroHigh
deriving DecidableEq, Repr

/-- `VariantConfig` and the further parameters of R6, as an engine holds them: numbers are naturals, which
every legal parameter is. What `construct` is given is `ConfigArgs` (log 19). -/
structure Config where
  /-- `FEEDBACK_MASK`, `2^H` when legal. -/
  feedbackMask : Nat
  /-- `TAP1`, a bit position. -/
  tap1 : Nat
  /-- `TAP2`, a bit position; may equal `tap1`. -/
  tap2 : Nat
  /-- `OUTPUT_NEGATE`. -/
  outputNegate : Bool
  /-- `HAS_STEREO`. -/
  hasStereo : Bool
  /-- `CLOCK_DIVIDER`: host-clock cycles per internal tick. -/
  clockDivider : Nat
  /-- `ZERO_PERIOD_POLICY`. -/
  zeroPeriodPolicy : ZeroPeriodPolicy
  /-- `LFSR_RESET`. -/
  lfsrReset : Nat
  /-- `NOISE_DIV[0]`. -/
  noiseDiv0 : Nat
  /-- `NOISE_DIV[1]`. -/
  noiseDiv1 : Nat
  /-- `NOISE_DIV[2]`. -/
  noiseDiv2 : Nat
  /-- `VOLUME_TABLE[0..15]`, signed (R160). -/
  volumeTable : Vector Int 16
  /-- `HAS_READY`. -/
  hasReady : Bool
  /-- `READY_CYCLES`, used only when `hasReady`. -/
  readyCycles : Nat
  /-- `LATCH_FREQ_POLICY`. -/
  latchFreqPolicy : LatchFreqPolicy
deriving DecidableEq, Repr

/-- The record `construct` is given: R6's parameters as integers, legal or not, since the checks of R196 are checks on
integers (`0 <= TAP1`, `CLOCK_DIVIDER >= 1`). -/
structure ConfigArgs where
  feedbackMask : Int
  tap1 : Int
  tap2 : Int
  outputNegate : Bool
  hasStereo : Bool
  clockDivider : Int
  zeroPeriodPolicy : ZeroPeriodPolicy
  lfsrReset : Int
  noiseDiv0 : Int
  noiseDiv1 : Int
  noiseDiv2 : Int
  volumeTable : Vector Int 16
  hasReady : Bool
  readyCycles : Int
  latchFreqPolicy : LatchFreqPolicy
deriving DecidableEq, Repr

/-- The record an engine holds. Every number that R196 lets through is its own value as a natural, but for a negative
`READY_CYCLES` on a variant without a ready line, which nothing uses and which stands as 0 (log 19). -/
def ConfigArgs.config (a : ConfigArgs) : Config :=
  { feedbackMask := a.feedbackMask.toNat
    tap1 := a.tap1.toNat
    tap2 := a.tap2.toNat
    outputNegate := a.outputNegate
    hasStereo := a.hasStereo
    clockDivider := a.clockDivider.toNat
    zeroPeriodPolicy := a.zeroPeriodPolicy
    lfsrReset := a.lfsrReset.toNat
    noiseDiv0 := a.noiseDiv0.toNat
    noiseDiv1 := a.noiseDiv1.toNat
    noiseDiv2 := a.noiseDiv2.toNat
    volumeTable := a.volumeTable
    hasReady := a.hasReady
    readyCycles := a.readyCycles.toNat
    latchFreqPolicy := a.latchFreqPolicy }

/-- The arguments that ask for a configuration. -/
def Config.args (c : Config) : ConfigArgs :=
  { feedbackMask := c.feedbackMask
    tap1 := c.tap1
    tap2 := c.tap2
    outputNegate := c.outputNegate
    hasStereo := c.hasStereo
    clockDivider := c.clockDivider
    zeroPeriodPolicy := c.zeroPeriodPolicy
    lfsrReset := c.lfsrReset
    noiseDiv0 := c.noiseDiv0
    noiseDiv1 := c.noiseDiv1
    noiseDiv2 := c.noiseDiv2
    volumeTable := c.volumeTable
    hasReady := c.hasReady
    readyCycles := c.readyCycles
    latchFreqPolicy := c.latchFreqPolicy }

/-- What the 11-bit noise counter, which holds 0 to 1024 (R5), is reloaded with for a divisor above 1024, which R6
makes legal and the counter cannot hold: the spec does not say, so it is a free value within the counter's range
(log 5). -/
opaque Config.wideNoiseReload : Nat → Fin 1025

/-- `H`, the high bit of the LFSR: `FEEDBACK_MASK = 2^H` for a legal configuration (R131). -/
def Config.highBit (c : Config) : Nat := c.feedbackMask.log2

/-- `W = H + 1`, the width of the LFSR (R131). -/
def Config.width (c : Config) : Nat := c.highBit + 1

/-- `H` and `W` of a record still to be checked (R196). -/
def ConfigArgs.highBit (a : ConfigArgs) : Nat := a.feedbackMask.toNat.log2
def ConfigArgs.width (a : ConfigArgs) : Nat := a.highBit + 1

/-- The largest of the three noise divisors, the bound of the noise counter (R26). -/
def Config.maxNoiseDiv (c : Config) : Nat := max c.noiseDiv0 (max c.noiseDiv1 c.noiseDiv2)

/-- The default table of R161, for the spec's test vectors only. -/
def Config.defaultVolumeTable : Vector Int 16 :=
  #v[8191, 6506, 5168, 4105, 3261, 2590, 2057, 1634, 1298, 1031, 819, 651, 517, 411, 326, 0]

/-- Test variant V1 of spec 95_test_vectors.md section 0. -/
def Config.v1 : Config :=
  { feedbackMask := 0x4000, tap1 := 0, tap2 := 1, outputNegate := false, hasStereo := false,
    clockDivider := 16, zeroPeriodPolicy := .treatAsMaximum, lfsrReset := 0x7FFF,
    noiseDiv0 := 16, noiseDiv1 := 32, noiseDiv2 := 64, volumeTable := Config.defaultVolumeTable,
    hasReady := true, readyCycles := 2, latchFreqPolicy := .preserve }

/-- Test variant V2 of spec 95_test_vectors.md section 0 (its `READY_CYCLES` is not used and stands as 1). -/
def Config.v2 : Config :=
  { feedbackMask := 0x8000, tap1 := 0, tap2 := 3, outputNegate := true, hasStereo := true,
    clockDivider := 16, zeroPeriodPolicy := .treatAsOne, lfsrReset := 0xFFFF,
    noiseDiv0 := 16, noiseDiv1 := 32, noiseDiv2 := 64, volumeTable := Config.defaultVolumeTable,
    hasReady := false, readyCycles := 1, latchFreqPolicy := .preserve }

end Sys2Proof
end

