-- ==== Sys2Proof/Machine/State.lean ====
section
/-! DEFINITION. The state of the machine (spec 10_state.md), the host side that drives it (spec 20_memory.md R57,
43_mixer.md R171), the reasons a step can stop, and the state after reset. All of it is plain data. -/

namespace Sys2Proof.Machine

/-- The three tone channels (R4). -/
inductive ToneId where
  | t0
  | t1
  | t2
deriving DecidableEq, Repr

/-- The four mixer inputs `ch`: tone 0, 1, 2 and the noise channel 3 (spec 43_mixer.md). -/
inductive Channel where
  | tone0
  | tone1
  | tone2
  | noise
deriving DecidableEq, Repr

/-- One tone channel. `period` is `reg[2c]` and `attenuation` is `reg[2c+1]`, one store (R20, R21);
`counter` is `tone_counter[c]`, an integer in 0 to 1024 (R24); `output` is `tone_out[c]` (R25). -/
structure ToneChannel where
  period : BitVec 10
  attenuation : BitVec 4
  counter : Nat
  output : Bool
deriving DecidableEq, Repr

/-- The noise channel. `control` is `reg[6]`, `attenuation` is `reg[7]` (R20, R21); `counter` is
`noise_counter`, 0 to 1024 and no more than the largest divisor (R5, R26, log 5); `lfsr` is the W-bit
shift register as a number (R27, log 6); `output` is `noise_out` (R28). -/
structure NoiseChannel where
  control : BitVec 3
  attenuation : BitVec 4
  counter : Nat
  lfsr : Nat
  output : Bool
deriving DecidableEq, Repr

/-- The ready line: `ready_state` and `cycles_to_ready` (R30). -/
structure ReadyLine where
  ready : Bool
  cyclesToReady : Nat
deriving DecidableEq, Repr

/-- The engine: the state record of spec 10_state.md, with the configuration and the host clock that
`construct` fixes for its life (R198, log 2). -/
structure Engine where
  cfg : Config
  hostClockHz : Nat
  tone0 : ToneChannel
  tone1 : ToneChannel
  tone2 : ToneChannel
  noise : NoiseChannel
  /-- `last_latched`, an index or the spec's own `none` (R23). -/
  lastLatched : Option (BitVec 3)
  /-- `stereo_mask` (R29); nothing reads or writes it on a variant without `HAS_STEREO` (log 7). -/
  stereoMask : BitVec 8
  readyLine : ReadyLine
deriving DecidableEq, Repr

/-- The power states (R31): `poweredOff` is the absence of an engine (R197, log 8). -/
inductive Power where
  | poweredOff
  | running
deriving DecidableEq, Repr

/-- What a host asks of the mixer: the output the variant gives (R169), a mono value (R165, R168), or a
pair (R166, R167). -/
inductive MixRequest where
  | native
  | mono
  | stereo
deriving DecidableEq, Repr

/-- The mixer's output: one sum, or left and right; unbounded signed integers (R170). -/
inductive Sample where
  | mono (v : Int)
  | pair (left right : Int)
deriving DecidableEq, Repr

/-- What the host can read: the ready line and the mixer output (R51). -/
inductive Answer where
  | ready (b : Bool)
  | sample (s : Sample)
deriving DecidableEq, Repr

/-- The host's operations (R3); `generate` is its sample loop (R171), and `writeAt` hands it a write to
be applied when `ticks` more ticks have run (R58, log 13). -/
inductive HostOp where
  | construct (args : ConfigArgs) (hostClockHz : Int)
  | write (port : Port) (byte : Byte)
  | tick
  | reset
  | isReady
  | mix (request : MixRequest)
  | generate (samples : Nat) (sampleRateHz : Nat) (request : MixRequest)
  | writeAt (ticks : Nat) (port : Port) (byte : Byte)
deriving DecidableEq, Repr

/-- A write the host holds until `ticksLeft` more ticks have run (log 13). -/
structure DueWrite where
  ticksLeft : Nat
  port : Port
  byte : Byte
deriving DecidableEq, Repr

/-- The host side, not chip state (R34): the operations still to be issued, in order (R57), the writes held
for later ticks, the sample accumulator `sample_acc` (R171), and what the queries answered, oldest first. -/
structure HostSide where
  inputs : List HostOp
  due : List DueWrite
  sampleAcc : Nat
  answers : List Answer
deriving DecidableEq, Repr

/-- The whole machine. `engine = none` is the power state `PoweredOff` (log 8). -/
structure State where
  engine : Option Engine
  host : HostSide
deriving DecidableEq, Repr

/-- The checks `construct` makes, by the name of the one that failed (R196). -/
inductive ConfigError where
  | feedbackMaskNotPowerOfTwo
  | tapOutOfRange
  | resetValueOutOfRange
  | badClockDivider
  | badNoiseDivider
  | silenceEntryNotZero
  | badReadyCycles
  | badHostClock
deriving DecidableEq, Repr

/-- Why the machine stops with an error. -/
inductive Fault where
  /-- `ConfigError(reason)`, the spec's only error, raised by `construct` alone (R196, R211). Safe: the spec
  says no engine exists afterwards, and the model goes no further (log 10). -/
  | configError (reason : ConfigError)
deriving DecidableEq, Repr

/-- Why an operation has no meaning here. -/
inductive Refusal where
  /-- Raised by exec for an instruction that has no meaning yet; no arm raises it. Safe. -/
  | notModelled (mnemonic : String)
  /-- Raised by every operation but `construct` and the host's own bookkeeping while no engine exists:
  before `construct` they have no meaning (R197). Safe. -/
  | noEngine
  /-- Raised by `STEREO` on a variant without `HAS_STEREO`: the port does not exist (R101). Safe. -/
  | stereoPortAbsent
  /-- Raised by a request for mono from a variant with `HAS_STEREO` (R168). Safe. -/
  | monoFromStereoVariant
  /-- Raised by `generate` at a sample rate of 0, outside the argument's range (R6, log 15). Safe. -/
  | sampleRateZero
deriving DecidableEq, Repr

/-- A tone channel with every field at its reset value (R35). -/
def ToneChannel.reset : ToneChannel :=
  { period := 0, attenuation := 15, counter := 0, output := false }

/-- The noise channel with every field at its reset value; the shift register holds `LFSR_RESET` (R35). -/
def NoiseChannel.reset (c : Config) : NoiseChannel :=
  { control := 0, attenuation := 15, counter := 0, lfsr := c.lfsrReset, output := c.lfsrReset.testBit 0 }

/-- The ready line at its reset value (R35). -/
def ReadyLine.reset : ReadyLine := { ready := true, cyclesToReady := 0 }

/-- The engine in the reset state of R35, for any configuration and host clock. -/
def Engine.initial (c : Config) (hostClockHz : Nat) : Engine :=
  { cfg := c
    hostClockHz := hostClockHz
    tone0 := ToneChannel.reset
    tone1 := ToneChannel.reset
    tone2 := ToneChannel.reset
    noise := NoiseChannel.reset c
    lastLatched := none
    stereoMask := 0xFF
    readyLine := ReadyLine.reset }

/-- The host side with nothing to do. -/
def HostSide.idle : HostSide := { inputs := [], due := [], sampleAcc := 0, answers := [] }

/-- The power state (R31). -/
def State.power (s : State) : Power :=
  match s.engine with
  | none => .poweredOff
  | some _ => .running

/-- The machine right after reset: an engine in R35's reset state and an idle host. The configuration is
the spec's test variant V2 and the host clock the source's 4,000,000 Hz (log 1). -/
def State.reset : State :=
  { engine := some (Engine.initial Config.v2 4000000), host := HostSide.idle }

end Sys2Proof.Machine
end

