-- ==== Sys2Proof/Machine/Flags.lean ====
section
/-! DEFINITION. The core has no status flags (spec 10_state.md R33); its one-bit state values besides the outputs
are the ready line's. Here are the ready line's two operations (44_engine.md R191, R192) and the sign an
output bit stands for (43_mixer.md R163). -/

namespace Sys2Proof.Machine

/-- `ReadyOnWrite()`: every write on `MAIN` restarts the countdown (R191). -/
def readyOnWrite (c : Config) (r : ReadyLine) : ReadyLine :=
  if c.hasReady then { ready := false, cyclesToReady := c.readyCycles } else r

/-- `ReadyTick()` (R192). -/
def readyTick (c : Config) (r : ReadyLine) : ReadyLine :=
  if c.hasReady = true ∧ 0 < r.cyclesToReady then
    { ready := if r.cyclesToReady - 1 = 0 then true else r.ready
      cyclesToReady := r.cyclesToReady - 1 }
  else r

/-- `is_ready()`: the ready state; a variant without a ready line is always ready (R193). -/
def isReady (e : Engine) : Bool :=
  if e.cfg.hasReady then e.readyLine.ready else true

/-- `polarity(bit)` (R163). -/
def polarity (outputNegate : Bool) (bit : Bool) : Int :=
  if bit = outputNegate then -1 else 1

end Sys2Proof.Machine
end

