-- ==== Sys2Proof/Machine/Operands.lean ====
section
/-! DEFINITION. How the fields of a byte become register contents (spec 30_encoding.md R74 to R77,
40_register_writes.md R91, R100), and the fields of the noise control register (42_noise.md R130). -/

namespace Sys2Proof.Machine

/-- The period after a frequency latch byte (R91). -/
def latchPeriod (policy : LatchFreqPolicy) (old : BitVec 10) (d : BitVec 4) : BitVec 10 :=
  match policy with
  | .preserve => (old &&& 0x3F0#10) ||| d.setWidth 10
  | .zeroHigh => d.setWidth 10

/-- The period after a data byte: `(h << 4) | reg[3:0]` (R100). -/
def dataPeriod (old : BitVec 10) (h : BitVec 6) : BitVec 10 :=
  (h.setWidth 10 <<< 4) ||| (old &&& 0x00F#10)

/-- The noise control value a latch byte stores: `d[2:0]`, `d[3]` discarded (R77). -/
def noiseControlOf (d : BitVec 4) : BitVec 3 := d.setWidth 3

/-- The rate select, bits 1:0 of the noise control (R130). -/
def noiseRate (control : BitVec 3) : BitVec 2 := control.extractLsb' 0 2

/-- The mode, bit 2 of the noise control: true is white, false is periodic (R130). -/
def noiseWhite (control : BitVec 3) : Bool := control.getLsbD 2

/-- The register index of channel `c`'s period, `2c` (R75). -/
def ToneId.periodIndex : ToneId → BitVec 3
  | .t0 => 0
  | .t1 => 2
  | .t2 => 4

/-- The register index of channel `c`'s attenuation, `2c + 1` (R75). -/
def ToneId.attIndex : ToneId → BitVec 3
  | .t0 => 1
  | .t1 => 3
  | .t2 => 5

/-- The tone channel whose period a register index names, if it is a frequency register (R75). -/
def freqTarget (r : BitVec 3) : Option ToneId :=
  match r.toNat with
  | 0 => some .t0
  | 2 => some .t1
  | 4 => some .t2
  | _ => none

/-- The channel a data byte goes to: the last-latched frequency register, if it is one (R100). -/
def dataTarget (lastLatched : Option (BitVec 3)) : Option ToneId :=
  match lastLatched with
  | some r => freqTarget r
  | none => none

end Sys2Proof.Machine
end

