-- ==== Sys2Proof/Machine/Noise.lean ====
section
/-! DEFINITION. The noise channel and its shift register (spec 42_noise.md). -/

namespace Sys2Proof.Machine

/-- `feedback()`, from the shift register before the shift (R132). -/
def feedback (c : Config) (n : NoiseChannel) : Bool :=
  if noiseWhite n.control then (n.lfsr.testBit c.tap1) ^^ (n.lfsr.testBit c.tap2)
  else n.lfsr.testBit c.tap1

/-- `Shift()`: one step of the shift register; the output is bit 0 of the new value (R133). -/
def noiseShift (c : Config) (n : NoiseChannel) : NoiseChannel :=
  let shifted := (n.lfsr >>> 1) ||| ((feedback c n).toNat <<< c.highBit)
  { n with lfsr := shifted, output := shifted.testBit 0 }

/-- `Reseed()` (R137). -/
def noiseReseed (c : Config) (n : NoiseChannel) : NoiseChannel :=
  { n with lfsr := c.lfsrReset, output := c.lfsrReset.testBit 0 }

/-- What the noise counter reloads with at divisor `d`: the divisor (R135), or, above the 1024 that the counter holds
(R5), a free value in its range (log 5). -/
def noiseReload (d : Nat) : Nat :=
  if d ≤ 1024 then d else (Config.wideNoiseReload d).val

/-- One tick at a rate of 0 to 2, whose divisor is `d`: the counter runs down and shifts on underflow (R135). -/
def noiseCount (c : Config) (d : Nat) (n : NoiseChannel) : NoiseChannel :=
  if n.counter ≤ 1 then noiseShift c { n with counter := noiseReload d }
  else { n with counter := n.counter - 1 }

/-- `NoiseTick(t2_underflow)` (R135, R136). -/
def noiseTick (c : Config) (t2Underflow : Bool) (n : NoiseChannel) : NoiseChannel :=
  match (noiseRate n.control).toNat with
  | 0 => noiseCount c c.noiseDiv0 n
  | 1 => noiseCount c c.noiseDiv1 n
  | 2 => noiseCount c c.noiseDiv2 n
  | _ => if t2Underflow then noiseShift c n else n

end Sys2Proof.Machine
end

