-- ==== Sys2Proof/Machine/Tone.lean ====
section
/-! DEFINITION. The tone channels (spec 41_tone.md). -/

namespace Sys2Proof.Machine

/-- `eff_period(c)`: what a tone counter reloads with (R110, R116). -/
def effPeriod (policy : ZeroPeriodPolicy) (period : BitVec 10) : Nat :=
  if period = 0 then
    match policy with
    | .treatAsMaximum => 0x400
    | .treatAsOne => 1
  else period.toNat

/-- `ToneTick(c)`: the channel after the tick, and whether it underflowed. With `n = counter - 1` on the
integers, `n <= 0` is `counter <= 1` (R111). -/
def toneTick (c : Config) (t : ToneChannel) : ToneChannel × Bool :=
  if t.counter ≤ 1 then
    ({ t with counter := effPeriod c.zeroPeriodPolicy t.period, output := !t.output }, true)
  else
    ({ t with counter := t.counter - 1 }, false)

end Sys2Proof.Machine
end

