-- ==== Sys2Proof/Machine/Ops.lean ====
section
/-! DEFINITION. The shared operations on the engine: the register view, the steps of a register write (spec
40_register_writes.md R90, R91), the engine tick (44_engine.md R190), the reset (70_reset_and_hazards.md R230), and
raising `ConfigError`, the only exception there is (60_exceptions.md R211); no operation returns from one (R214). -/

namespace Sys2Proof.Machine

/-- A tone channel by its number. -/
def Engine.tone (e : Engine) : ToneId → ToneChannel
  | .t0 => e.tone0
  | .t1 => e.tone1
  | .t2 => e.tone2

/-- Replace one tone channel. -/
def Engine.setTone (e : Engine) (c : ToneId) (t : ToneChannel) : Engine :=
  match c with
  | .t0 => { e with tone0 := t }
  | .t1 => { e with tone1 := t }
  | .t2 => { e with tone2 := t }

/-- Replace the noise channel. -/
def Engine.setNoise (e : Engine) (n : NoiseChannel) : Engine := { e with noise := n }

/-- `last_latched <- r` (R90). -/
def Engine.setLatched (e : Engine) (r : BitVec 3) : Engine := { e with lastLatched := some r }

/-- `stereo_mask <- m` (R101). -/
def Engine.setStereo (e : Engine) (m : BitVec 8) : Engine := { e with stereoMask := m }

/-- `reg[i]` zero-extended to 10 bits (R20, R21): a view for statements, no chip operation reads it (R22, R219). -/
def Engine.reg (e : Engine) (i : BitVec 3) : BitVec 10 :=
  match i.toNat with
  | 0 => e.tone0.period
  | 1 => e.tone0.attenuation.setWidth 10
  | 2 => e.tone1.period
  | 3 => e.tone1.attenuation.setWidth 10
  | 4 => e.tone2.period
  | 5 => e.tone2.attenuation.setWidth 10
  | 6 => e.noise.control.setWidth 10
  | _ => e.noise.attenuation.setWidth 10

/-- `reg[2c] <- p`. -/
def Engine.setPeriod (e : Engine) (c : ToneId) (p : BitVec 10) : Engine :=
  e.setTone c { e.tone c with period := p }

/-- `reg[2c+1] <- d`. -/
def Engine.setAtt (e : Engine) (c : ToneId) (d : BitVec 4) : Engine :=
  e.setTone c { e.tone c with attenuation := d }

/-- The start of every write on `MAIN`: the ready line (R90, R191). -/
def Engine.startWrite (e : Engine) : Engine := { e with readyLine := readyOnWrite e.cfg e.readyLine }

/-- A whole latch byte to channel `c`'s period: `LatchFreq(c, d)` and `last_latched <- 2c` (R90, R91). -/
def Engine.latchFreq (e : Engine) (c : ToneId) (d : BitVec 4) : Engine :=
  ((e.startWrite).setPeriod c (latchPeriod e.cfg.latchFreqPolicy (e.tone c).period d)).setLatched c.periodIndex

/-- A whole latch byte to channel `c`'s attenuation (R93). -/
def Engine.latchAtt (e : Engine) (c : ToneId) (d : BitVec 4) : Engine :=
  ((e.startWrite).setAtt c d).setLatched c.attIndex

/-- A whole latch byte to the noise control: store, reseed, latch (R98). -/
def Engine.latchNoiseControl (e : Engine) (d : BitVec 4) : Engine :=
  ((e.startWrite).setNoise (noiseReseed e.cfg { e.noise with control := noiseControlOf d })).setLatched 6

/-- A whole latch byte to the noise attenuation (R99). -/
def Engine.latchNoiseAtt (e : Engine) (d : BitVec 4) : Engine :=
  ((e.startWrite).setNoise { e.noise with attenuation := d }).setLatched 7

/-- A whole data byte: it writes the last-latched frequency register, or no register (R100). -/
def Engine.dataByte (e : Engine) (h : BitVec 6) : Engine :=
  match dataTarget e.lastLatched with
  | some c => (e.startWrite).setPeriod c (dataPeriod (e.tone c).period h)
  | none => e.startWrite

/-- `tick()`: three tone ticks, then the noise tick, which sees channel 2's underflow of this same tick, then
the ready tick (R190). -/
def Engine.tick (e : Engine) : Engine :=
  { e with
    tone0 := (toneTick e.cfg e.tone0).1
    tone1 := (toneTick e.cfg e.tone1).1
    tone2 := (toneTick e.cfg e.tone2).1
    noise := noiseTick e.cfg (toneTick e.cfg e.tone2).2 e.noise
    readyLine := readyTick e.cfg e.readyLine }

/-- `TICK n` (R81): `n` engine ticks. -/
def Engine.ticks (e : Engine) : Nat → Engine
  | 0 => e
  | n + 1 => Engine.ticks e.tick n

/-- `reset()` on the chip: every field at its reset value, the configuration and the host clock kept (R230, R231). -/
def Engine.doReset (e : Engine) : Engine := Engine.initial e.cfg e.hostClockHz

/-- Put an engine into the machine. -/
def State.withEngine (s : State) (e : Engine) : State := { s with engine := some e }

/-- Run a total operation of the engine (R210); without an engine it has no meaning (R197). -/
def onEngine (f : Engine → Engine) (s : State) : Host.Outcome State Fault Refusal :=
  match s.engine with
  | some e => .next (s.withEngine (f e))
  | none => .refused .noEngine

/-- `raise ConfigError(reason)`: the machine stops, and no engine exists (R211, R197). -/
def raiseConfigError (reason : ConfigError) : Host.Outcome State Fault Refusal :=
  .fault (.configError reason)

end Sys2Proof.Machine
end

