-- ==== Sys2Proof/Machine/Construct.lean ====
section
/-! DEFINITION. Construction of an engine and the checks it makes (spec 44_engine.md R196). -/

namespace Sys2Proof.Machine

/-- The checks of `construct`, in the spec's order: the first that fails names the error (R196). -/
def checkConfig (a : ConfigArgs) (hostClockHz : Int) : Option ConfigError :=
  if a.feedbackMask ≠ 2 ^ a.highBit then some .feedbackMaskNotPowerOfTwo
  else if ¬ ((0 ≤ a.tap1 ∧ a.tap1 < a.width) ∧ (0 ≤ a.tap2 ∧ a.tap2 < a.width)) then some .tapOutOfRange
  else if ¬ (0 ≤ a.lfsrReset ∧ a.lfsrReset < 2 ^ a.width) then some .resetValueOutOfRange
  else if ¬ 1 ≤ a.clockDivider then some .badClockDivider
  else if ¬ (1 ≤ a.noiseDiv0 ∧ 1 ≤ a.noiseDiv1 ∧ 1 ≤ a.noiseDiv2) then some .badNoiseDivider
  else if a.volumeTable[15] ≠ 0 then some .silenceEntryNotZero
  else if ¬ (a.hasReady = false ∨ 1 ≤ a.readyCycles) then some .badReadyCycles
  else if ¬ 1 ≤ hostClockHz then some .badHostClock
  else none

/-- `construct(cfg, host_clock_hz)`: check, then an engine in the reset state and `sample_acc` at 0 (R196). An
engine the machine already had is replaced (log 9). -/
def doConstruct (a : ConfigArgs) (hostClockHz : Int) (s : State) : Host.Outcome State Fault Refusal :=
  match checkConfig a hostClockHz with
  | some reason => raiseConfigError reason
  | none =>
    .next { engine := some (Engine.initial a.config hostClockHz.toNat), host := { s.host with sampleAcc := 0 } }

end Sys2Proof.Machine
end

