-- ==== Sys2Proof/Machine/Data.lean ====
section
/-! DEFINITION. The meanings of the data row and the stereo row (spec 40_register_writes.md R100, R101). -/

namespace Sys2Proof.Machine

/-- `DATA h`; the byte's bit 6, `x`, is ignored (R100, R78). -/
def execData (_x : BitVec 1) (h : BitVec 6) (s : State) : Host.Outcome State Fault Refusal :=
  onEngine (fun e => e.dataByte h) s

/-- `STEREO m`: the mask and nothing else, on a variant with `HAS_STEREO`; on another the port does not exist
and the write is refused by name (R101). -/
def execStereo (m : BitVec 8) (s : State) : Host.Outcome State Fault Refusal :=
  match s.engine with
  | some e => if e.cfg.hasStereo then .next (s.withEngine (e.setStereo m)) else .refused .stereoPortAbsent
  | none => .refused .noEngine

end Sys2Proof.Machine
end

