-- ==== Sys2Proof/Machine/Latch.lean ====
section
/-! DEFINITION. The meanings of the eight latch rows (spec 40_register_writes.md R92 to R99). -/

namespace Sys2Proof.Machine

/-- `LATCH.T0F d` (R92). -/
def execLatchT0F (d : BitVec 4) (s : State) : Host.Outcome State Fault Refusal :=
  onEngine (fun e => e.latchFreq .t0 d) s

/-- `LATCH.T0A d` (R93). -/
def execLatchT0A (d : BitVec 4) (s : State) : Host.Outcome State Fault Refusal :=
  onEngine (fun e => e.latchAtt .t0 d) s

/-- `LATCH.T1F d` (R94). -/
def execLatchT1F (d : BitVec 4) (s : State) : Host.Outcome State Fault Refusal :=
  onEngine (fun e => e.latchFreq .t1 d) s

/-- `LATCH.T1A d` (R95). -/
def execLatchT1A (d : BitVec 4) (s : State) : Host.Outcome State Fault Refusal :=
  onEngine (fun e => e.latchAtt .t1 d) s

/-- `LATCH.T2F d` (R96). -/
def execLatchT2F (d : BitVec 4) (s : State) : Host.Outcome State Fault Refusal :=
  onEngine (fun e => e.latchFreq .t2 d) s

/-- `LATCH.T2A d` (R97). -/
def execLatchT2A (d : BitVec 4) (s : State) : Host.Outcome State Fault Refusal :=
  onEngine (fun e => e.latchAtt .t2 d) s

/-- `LATCH.NCTL d` (R98). -/
def execLatchNctl (d : BitVec 4) (s : State) : Host.Outcome State Fault Refusal :=
  onEngine (fun e => e.latchNoiseControl d) s

/-- `LATCH.NATT d` (R99). -/
def execLatchNatt (d : BitVec 4) (s : State) : Host.Outcome State Fault Refusal :=
  onEngine (fun e => e.latchNoiseAtt d) s

end Sys2Proof.Machine
end

