-- ==== Sys2Proof/Machine/Dispatch.lean ====
section
/-! DEFINITION. One arm per constructor of Instr. -/

namespace Sys2Proof.Machine

def exec (i : Instr) (s : State) : Host.Outcome State Fault Refusal :=
  match i with
  | .latchT0F d => Sys2Proof.Machine.execLatchT0F d s
  | .latchT0A d => Sys2Proof.Machine.execLatchT0A d s
  | .latchT1F d => Sys2Proof.Machine.execLatchT1F d s
  | .latchT1A d => Sys2Proof.Machine.execLatchT1A d s
  | .latchT2F d => Sys2Proof.Machine.execLatchT2F d s
  | .latchT2A d => Sys2Proof.Machine.execLatchT2A d s
  | .latchNctl d => Sys2Proof.Machine.execLatchNctl d s
  | .latchNatt d => Sys2Proof.Machine.execLatchNatt d s
  | .data x h => Sys2Proof.Machine.execData x h s
  | .stereo m => Sys2Proof.Machine.execStereo m s

end Sys2Proof.Machine
end

