-- ==== Sys2Proof/Machine/Mixer.lean ====
section
/-! DEFINITION. The mixer (spec 43_mixer.md): a pure function of the engine. -/

namespace Sys2Proof.Machine

/-- The four mixer inputs. -/
def Channel.all : List Channel := [.tone0, .tone1, .tone2, .noise]

/-- `ch`, 0 to 3 (R164). -/
def Channel.index : Channel → Nat
  | .tone0 => 0
  | .tone1 => 1
  | .tone2 => 2
  | .noise => 3

/-- `out(ch)` (R164). -/
def Engine.out (e : Engine) : Channel → Bool
  | .tone0 => e.tone0.output
  | .tone1 => e.tone1.output
  | .tone2 => e.tone2.output
  | .noise => e.noise.output

/-- `att(ch)` (R164). -/
def Engine.att (e : Engine) : Channel → BitVec 4
  | .tone0 => e.tone0.attenuation
  | .tone1 => e.tone1.attenuation
  | .tone2 => e.tone2.attenuation
  | .noise => e.noise.attenuation

/-- `VOLUME_TABLE[a]` (R160). -/
def volume (c : Config) (a : BitVec 4) : Int := c.volumeTable[a.toNat]'a.isLt

/-- `sig(ch)` (R164). -/
def Engine.sig (e : Engine) (ch : Channel) : Int :=
  polarity e.cfg.outputNegate (e.out ch) * volume e.cfg (e.att ch)

/-- `mono`: the sum of the four signals (R165). -/
def Engine.mono (e : Engine) : Int := (Channel.all.map e.sig).sum

/-- The channels enabled on the left: bit `4 + ch` of the mask (R166, R72). -/
def Engine.leftEnabled (e : Engine) (ch : Channel) : Bool := e.stereoMask.getLsbD (4 + ch.index)

/-- The channels enabled on the right: bit `ch` of the mask (R166, R72). -/
def Engine.rightEnabled (e : Engine) (ch : Channel) : Bool := e.stereoMask.getLsbD ch.index

/-- `left` (R166). -/
def Engine.left (e : Engine) : Int := ((Channel.all.filter e.leftEnabled).map e.sig).sum

/-- `right` (R166). -/
def Engine.right (e : Engine) : Int := ((Channel.all.filter e.rightEnabled).map e.sig).sum

/-- `mix(state)` as the variant gives it: a pair on a stereo variant (R168), one sum on another (R165). -/
def Engine.mix (e : Engine) : Sample :=
  if e.cfg.hasStereo then .pair e.left e.right else .mono e.mono

/-- The answer to a request of the host: a pair from a variant without stereo is the mono sum twice (R167), and
mono from a stereo variant is refused by name (R168). -/
def Engine.mixFor (e : Engine) (request : MixRequest) : Except Refusal Sample :=
  match request with
  | .native => .ok e.mix
  | .mono => if e.cfg.hasStereo then .error .monoFromStereoVariant else .ok (.mono e.mono)
  | .stereo => if e.cfg.hasStereo then .ok (.pair e.left e.right) else .ok (.pair e.mono e.mono)

end Sys2Proof.Machine
end

