-- ==== Sys2Proof/Machine/HostOps.lean ====
section
/-! DEFINITION. The host's operations on the machine (spec 00_scope.md R3): writes through the decoder, ticks, reset,
the two queries, and the sample loop `generate` (43_mixer.md R171). -/

namespace Sys2Proof.Machine

/-- Put operations in front of those the host still has to issue. -/
def State.pushInputs (s : State) (ops : List HostOp) : State :=
  { s with host := { s.host with inputs := ops ++ s.host.inputs } }

/-- Record what a query answered. -/
def State.answer (s : State) (a : Answer) : State :=
  { s with host := { s.host with answers := s.host.answers ++ [a] } }

/-- `write(b)` on `MAIN`, `stereo_write(b)` on `STEREO` (R50, R90, R101): the decoded instruction runs. -/
def hostWrite (p : Port) (b : Byte) (s : State) : Host.Outcome State Fault Refusal :=
  exec (decode p b) s

/-- The first of the held writes that is due before the next tick, and the others (log 13). -/
def takeDue : List DueWrite → Option (DueWrite × List DueWrite)
  | [] => none
  | w :: ws =>
    if w.ticksLeft = 0 then some (w, ws)
    else
      match takeDue ws with
      | some (v, rest) => some (v, w :: rest)
      | none => none

/-- One tick has run: every held write is one tick nearer (log 13). -/
def ageDue (ws : List DueWrite) : List DueWrite :=
  ws.map (fun w => { w with ticksLeft := w.ticksLeft - 1 })

/-- The host's tick: a held write that is due is applied first, and the tick stays to be issued (R58, R171);
when none is due the engine ticks (R190). -/
def hostTick (s : State) : Host.Outcome State Fault Refusal :=
  match takeDue s.host.due with
  | some (w, rest) =>
    hostWrite w.port w.byte
      ({ s with host := { s.host with due := rest } }.pushInputs [.tick])
  | none =>
    onEngine Engine.tick { s with host := { s.host with due := ageDue s.host.due } }

/-- `reset()`: the engine's reset, and `sample_acc` at 0 in the host loop (R230). -/
def hostReset (s : State) : Host.Outcome State Fault Refusal :=
  onEngine Engine.doReset { s with host := { s.host with sampleAcc := 0 } }

/-- `is_ready()`: the answer is recorded and the engine unchanged (R193). -/
def hostIsReady (s : State) : Host.Outcome State Fault Refusal :=
  match s.engine with
  | some e => .next (s.answer (.ready (isReady e)))
  | none => .refused .noEngine

/-- `mix`: the sample is recorded and the engine unchanged (R169). -/
def hostMix (request : MixRequest) (s : State) : Host.Outcome State Fault Refusal :=
  match s.engine with
  | some e =>
    match e.mixFor request with
    | .ok v => .next (s.answer (.sample v))
    | .error r => .refused r
  | none => .refused .noEngine

/-- The ticks of one sample: `sample_acc div (CLOCK_DIVIDER * sample_rate_hz)` after the addition (R171). -/
def sampleTicks (e : Engine) (sampleRateHz acc : Nat) : Nat :=
  (acc + e.hostClockHz) / (e.cfg.clockDivider * sampleRateHz)

/-- `sample_acc` after one sample (R171). -/
def sampleAccNext (e : Engine) (sampleRateHz acc : Nat) : Nat :=
  (acc + e.hostClockHz) % (e.cfg.clockDivider * sampleRateHz)

/-- `generate(N)`: with no sample left the loop ends; else it works out the ticks of one sample, issues them, then
the `mix`, then the rest of the loop (R171, log 12). `sample_acc` goes on from the value the last loop left, at
another sample rate too, where that value can lie above the rule's range until the first sample takes the
remainder: the model's choice (DESIGN CHOICE, log 21). When the variant refuses the request, mono from a stereo
variant (R168), the loop is refused at its first `mix`, after that sample's ticks, and a loop of no samples is
not refused: the model's choice (DESIGN CHOICE, log 22). -/
def hostGenerate (samples sampleRateHz : Nat) (request : MixRequest) (s : State) :
    Host.Outcome State Fault Refusal :=
  match s.engine with
  | none => .refused .noEngine
  | some e =>
    if sampleRateHz = 0 then .refused .sampleRateZero
    else
      match samples with
      | 0 => .next s
      | k + 1 =>
        .next ({ s with host := { s.host with sampleAcc := sampleAccNext e sampleRateHz s.host.sampleAcc } }.pushInputs
          (List.replicate (sampleTicks e sampleRateHz s.host.sampleAcc) HostOp.tick ++
            [HostOp.mix request, HostOp.generate k sampleRateHz request]))

/-- The host gives the loop a write to apply when `ticks` more ticks have run (log 13). -/
def hostWriteAt (ticks : Nat) (p : Port) (b : Byte) (s : State) : Host.Outcome State Fault Refusal :=
  .next { s with host := { s.host with due := s.host.due ++ [⟨ticks, p, b⟩] } }

/-- One operation of the host. -/
def runHostOp (op : HostOp) (s : State) : Host.Outcome State Fault Refusal :=
  match op with
  | .construct a hz => doConstruct a hz s
  | .write p b => hostWrite p b s
  | .tick => hostTick s
  | .reset => hostReset s
  | .isReady => hostIsReady s
  | .mix request => hostMix request s
  | .generate n rate request => hostGenerate n rate request s
  | .writeAt ticks p b => hostWriteAt ticks p b s

/-- Take the next operation off the host's list, if there is one. -/
def nextInput (s : State) : Option (HostOp × State) :=
  match s.host.inputs with
  | [] => none
  | op :: rest => some (op, { s with host := { s.host with inputs := rest } })

end Sys2Proof.Machine
end

