-- ==== Sys2Proof/Machine/Step.lean ====
section
/-! DEFINITION. One step: the next operation of the host, whole (spec 20_memory.md R57). The core fetches nothing
(R62); the host's sequence of operations takes the place of an instruction stream (10_state.md R32, log 3). -/

namespace Sys2Proof.Machine

/-- One operation of the host. When it has none to issue, all state holds as it is (60_exceptions.md R216). -/
def step (s : State) : Host.Outcome State Fault Refusal :=
  match nextInput s with
  | some (op, s') => runHostOp op s'
  | none => .next s

/-- The state in which the host's next operation is the write a word of the opcode table's numbering stands
for; a word that stands for no write changes nothing (logs 3, 4). -/
def State.withFetchWord (s : State) (nbits w : Nat) : State :=
  match tableWrite nbits w with
  | some (p, b) => s.pushInputs [.write p b]
  | none => s

end Sys2Proof.Machine
end

