-- ==== Sys2Proof/Machine/Persist.lean ====
section
/-! DEFINITION. The state to persist (spec 44_engine.md R199): flat numbers, nothing derived. Saving and restoring
are views of the model's state; the chip has no operation for them (R3). -/

namespace Sys2Proof.Machine

/-- The persisted list of R199. `lastLatched` has `none` as its own value; `stereoMask` is there only when
`HAS_STEREO`; `noise_out` is derived and left out. -/
structure SavedState where
  regs : Vector Nat 8
  toneCounters : Vector Nat 3
  toneOuts : Vector Nat 3
  noiseCounter : Nat
  lfsr : Nat
  lastLatched : Option Nat
  cyclesToReady : Nat
  readyState : Nat
  stereoMask : Option Nat
deriving DecidableEq, Repr

/-- What a save writes (R199). -/
def Engine.save (e : Engine) : SavedState :=
  { regs := #v[e.tone0.period.toNat, e.tone0.attenuation.toNat, e.tone1.period.toNat, e.tone1.attenuation.toNat,
      e.tone2.period.toNat, e.tone2.attenuation.toNat, e.noise.control.toNat, e.noise.attenuation.toNat]
    toneCounters := #v[e.tone0.counter, e.tone1.counter, e.tone2.counter]
    toneOuts := #v[e.tone0.output.toNat, e.tone1.output.toNat, e.tone2.output.toNat]
    noiseCounter := e.noise.counter
    lfsr := e.noise.lfsr
    lastLatched := e.lastLatched.map (·.toNat)
    cyclesToReady := e.readyLine.cyclesToReady
    readyState := e.readyLine.ready.toNat
    stereoMask := if e.cfg.hasStereo then some e.stereoMask.toNat else none }

/-- A tone channel from its saved numbers. -/
def restoreTone (period attenuation counter output : Nat) : ToneChannel :=
  { period := BitVec.ofNat 10 period
    attenuation := BitVec.ofNat 4 attenuation
    counter := counter
    output := output != 0 }

/-- What a restore builds, in an engine of the same configuration and host clock; `noise_out` is `lfsr[0]`
(R28, R199), and a mask that does not exist takes its reset value (log 18). -/
def Engine.restore (c : Config) (hostClockHz : Nat) (v : SavedState) : Engine :=
  { cfg := c
    hostClockHz := hostClockHz
    tone0 := restoreTone v.regs[0] v.regs[1] v.toneCounters[0] v.toneOuts[0]
    tone1 := restoreTone v.regs[2] v.regs[3] v.toneCounters[1] v.toneOuts[1]
    tone2 := restoreTone v.regs[4] v.regs[5] v.toneCounters[2] v.toneOuts[2]
    noise :=
      { control := BitVec.ofNat 3 v.regs[6]
        attenuation := BitVec.ofNat 4 v.regs[7]
        counter := v.noiseCounter
        lfsr := v.lfsr
        output := v.lfsr.testBit 0 }
    lastLatched := v.lastLatched.map (BitVec.ofNat 3)
    stereoMask := match v.stereoMask with
      | some m => BitVec.ofNat 8 m
      | none => 0xFF
    readyLine := { ready := v.readyState != 0, cyclesToReady := v.cyclesToReady } }

end Sys2Proof.Machine
end

