-- ==== Sys2Proof/Machine/Timing.lean ====
section
/-! DEFINITION. Seconds, which enter only through the tick cadence (spec 44_engine.md R200) and the frequency law
(41_tone.md R115). No rule of the machine reads them. -/

namespace Sys2Proof.Machine

/-- Engine ticks a second: `host_clock_hz / CLOCK_DIVIDER` (R200). -/
def Engine.tickRateHz (e : Engine) : Rat := (e.hostClockHz : Rat) / (e.cfg.clockDivider : Rat)

/-- `eff_period(c)` of the engine's own configuration (R110). -/
def Engine.effPeriod (e : Engine) (c : ToneId) : Nat :=
  Machine.effPeriod e.cfg.zeroPeriodPolicy (e.tone c).period

/-- The tone frequency `host_clock_hz / (CLOCK_DIVIDER * 2 * P)` (R115). -/
def Engine.toneFrequencyHz (e : Engine) (c : ToneId) : Rat :=
  (e.hostClockHz : Rat) / ((e.cfg.clockDivider * 2 * e.effPeriod c : Nat) : Rat)

end Sys2Proof.Machine
end

