-- ==== Sys2Proof/WellFormed.lean ====
section
/-! DEFINITION. What a legal configuration is (spec 00_scope.md R6, R7) and which instructions a variant has
(spec 40_register_writes.md R101: `STEREO` exists only when `HAS_STEREO`). -/

namespace Sys2Proof

/-- A configuration is legal exactly when every constraint of R6's type column holds (R7). -/
abbrev Config.Legal (c : Config) : Prop :=
  c.feedbackMask = 2 ^ c.highBit ∧
  c.tap1 < c.width ∧
  c.tap2 < c.width ∧
  c.lfsrReset < 2 ^ c.width ∧
  1 ≤ c.clockDivider ∧
  1 ≤ c.noiseDiv0 ∧
  1 ≤ c.noiseDiv1 ∧
  1 ≤ c.noiseDiv2 ∧
  c.volumeTable[15] = 0 ∧
  (c.hasReady = true → 1 ≤ c.readyCycles)

/-- The arguments of `construct` are legal exactly when every constraint of R6's type column holds of them (R7). -/
abbrev ConfigArgs.Legal (a : ConfigArgs) : Prop :=
  a.feedbackMask = 2 ^ a.highBit ∧
  (0 ≤ a.tap1 ∧ a.tap1 < a.width) ∧
  (0 ≤ a.tap2 ∧ a.tap2 < a.width) ∧
  (0 ≤ a.lfsrReset ∧ a.lfsrReset < 2 ^ a.width) ∧
  1 ≤ a.clockDivider ∧
  1 ≤ a.noiseDiv0 ∧
  1 ≤ a.noiseDiv1 ∧
  1 ≤ a.noiseDiv2 ∧
  a.volumeTable[15] = 0 ∧
  (a.hasReady = true → 1 ≤ a.readyCycles)

/-- An instruction is well formed on a variant when the port it is written to exists there (R50). Field
widths are held by the operands' types, and every byte value is legal (R79). -/
def Instr.wellFormed (c : Config) : Instr → Bool
  | .latchT0F _ => true
  | .latchT0A _ => true
  | .latchT1F _ => true
  | .latchT1A _ => true
  | .latchT2F _ => true
  | .latchT2A _ => true
  | .latchNctl _ => true
  | .latchNatt _ => true
  | .data _ _ => true
  | .stereo _ => c.hasStereo

end Sys2Proof
end

