-- ==== Sys2Proof/Safety.lean ====
section
/-! DEFINITION. The invariant of a constructed engine, and what it means that two engines agree on some of their
fields: the terms the statements use. -/

namespace Sys2Proof.Machine

/-- What holds of every engine between two operations. -/
structure Engine.Inv (e : Engine) : Prop where
  /-- `construct` let only a legal configuration through (R7, R196). -/
  legal : e.cfg.Legal
  hostClock : 1 ≤ e.hostClockHz
  /-- Tone counters hold 0 to 1024 (R24). -/
  toneCounter : ∀ c, (e.tone c).counter ≤ 1024
  /-- The noise counter holds 0 to the largest divisor (R26). -/
  noiseCounter : e.noise.counter ≤ e.cfg.maxNoiseDiv
  /-- The noise counter has 11 bits and holds 0 to 1024 (R5). -/
  noiseCounterWidth : e.noise.counter ≤ 1024
  /-- The shift register has W bits (R27). -/
  lfsrWidth : e.noise.lfsr < 2 ^ e.cfg.width
  /-- `noise_out = lfsr[0]` (R28, R134). -/
  noiseOut : e.noise.output = e.noise.lfsr.testBit 0
  /-- `cycles_to_ready` is 0 to `READY_CYCLES` (R30). -/
  readyRange : e.cfg.hasReady = true → e.readyLine.cyclesToReady ≤ e.cfg.readyCycles
  /-- The line is ready exactly when the countdown is over (R191, R192). -/
  readyCount : e.readyLine.ready = decide (e.readyLine.cyclesToReady = 0)
  /-- Without a ready line it is always ready (R195). -/
  readyAbsent : e.cfg.hasReady = false → e.readyLine = ⟨true, 0⟩
  /-- Without stereo the mask, which does not exist there (R29), keeps its reset value (log 7). -/
  stereoAbsent : e.cfg.hasStereo = false → e.stereoMask = 0xFF

/-- The invariant of the machine: of its engine, when it has one. -/
def State.Inv (s : State) : Prop := ∀ e, s.engine = some e → e.Inv

/-- The ready line after a `MAIN` write (R191). -/
def Engine.ReadyRestarted (e e' : Engine) : Prop :=
  (e.cfg.hasReady = true → e'.readyLine = ⟨false, e.cfg.readyCycles⟩) ∧
  (e.cfg.hasReady = false → e'.readyLine = e.readyLine)

/-- The frame of a `MAIN` write whose register is `target` (none for a discarded data byte): every other register,
every counter, the tone outputs, the stereo mask and the configuration stay, and the ready line restarts. It
does not speak of the target register, of `last_latched` or of the shift register. -/
structure Engine.MainWrite (target : Option (BitVec 3)) (e e' : Engine) : Prop where
  cfg : e'.cfg = e.cfg
  hostClock : e'.hostClockHz = e.hostClockHz
  regs : ∀ i, target ≠ some i → e'.reg i = e.reg i
  toneCounter : ∀ c, (e'.tone c).counter = (e.tone c).counter
  toneOut : ∀ c, (e'.tone c).output = (e.tone c).output
  noiseCounter : e'.noise.counter = e.noise.counter
  stereoMask : e'.stereoMask = e.stereoMask
  ready : e.ReadyRestarted e'

/-- Two engines whose shift register and output are the same. -/
def Engine.SameLfsr (e e' : Engine) : Prop :=
  e'.noise.lfsr = e.noise.lfsr ∧ e'.noise.output = e.noise.output

/-- A latch byte with data `d` to the frequency register `r` (R91, R92): the low 4 bits, the high 6 bits by the
policy, the latch pointer, and nothing else. -/
structure Engine.FreqLatched (r : BitVec 3) (d : BitVec 4) (e e' : Engine) : Prop where
  low : (e'.reg r).extractLsb' 0 4 = d
  preserve : e.cfg.latchFreqPolicy = .preserve → (e'.reg r).extractLsb' 4 6 = (e.reg r).extractLsb' 4 6
  zeroHigh : e.cfg.latchFreqPolicy = .zeroHigh → (e'.reg r).extractLsb' 4 6 = 0
  latched : e'.lastLatched = some r
  lfsr : e.SameLfsr e'
  frame : e.MainWrite (some r) e'

/-- A latch byte with data `d` to the attenuation register `r` (R93): all 4 bits, the latch pointer, and nothing
else. -/
structure Engine.AttLatched (r : BitVec 3) (d : BitVec 4) (e e' : Engine) : Prop where
  stored : e'.reg r = d.setWidth 10
  latched : e'.lastLatched = some r
  lfsr : e.SameLfsr e'
  frame : e.MainWrite (some r) e'

/-- From `e` to `e'` the count of channel `c` in progress runs out as it would have, and the period in force at its
underflow is that of `e'` (R113). A count of 0, which only a reset leaves, runs out on the next tick (R111). -/
structure Engine.CountRunsOut (c : ToneId) (e e' : Engine) : Prop where
  before : ∀ n, n < (e.tone c).counter →
    ((e'.ticks n).tone c).counter = (e.tone c).counter - n ∧ ((e'.ticks n).tone c).output = (e.tone c).output
  atUnderflow :
    ((e'.ticks (max 1 (e.tone c).counter)).tone c).counter = e'.effPeriod c ∧
    ((e'.ticks (max 1 (e.tone c).counter)).tone c).output = !(e.tone c).output

/-- A data byte written now is discarded: it completes, and changes nothing but the ready line (R100). -/
def State.DiscardsData (s : State) (e : Engine) : Prop :=
  ∀ (x : BitVec 1) (h : BitVec 6), ∃ e', exec (.data x h) (s.withEngine e) = .next (s.withEngine e') ∧
    e.MainWrite none e' ∧ e.SameLfsr e' ∧ e'.lastLatched = e.lastLatched

/-- Every field at the value spec 10_state.md R35 gives it for reset. -/
structure Engine.AtReset (e : Engine) : Prop where
  periods : e.reg 0 = 0 ∧ e.reg 2 = 0 ∧ e.reg 4 = 0
  attenuations : e.reg 1 = 15 ∧ e.reg 3 = 15 ∧ e.reg 5 = 15 ∧ e.reg 7 = 15
  noiseControl : e.reg 6 = 0
  latched : e.lastLatched = none
  toneCounter : ∀ c, (e.tone c).counter = 0
  toneOut : ∀ c, (e.tone c).output = false
  noiseCounter : e.noise.counter = 0
  lfsr : e.noise.lfsr = e.cfg.lfsrReset
  noiseOut : e.noise.output = e.cfg.lfsrReset.testBit 0
  stereoMask : e.stereoMask = 0xFF
  ready : e.readyLine.ready = true
  cyclesToReady : e.readyLine.cyclesToReady = 0

/-- Two engines that differ at most in the ready line. -/
def Engine.SameButReady (e e' : Engine) : Prop :=
  { e with readyLine := e'.readyLine } = e'

/-- Two engines that agree on everything the mixer reads (R169), the configuration among it. -/
structure Engine.SameToMixer (e e' : Engine) : Prop where
  cfg : e'.cfg = e.cfg
  out : ∀ ch, e'.out ch = e.out ch
  att : ∀ ch, e'.att ch = e.att ch
  mask : e'.stereoMask = e.stereoMask

/-- The operation the next step carries out: the host's next one, or, when that is a tick and a held write is due,
that write (log 13). -/
def State.nextOp (s : State) : Option HostOp :=
  match s.host.inputs with
  | [] => none
  | op :: _ =>
    if op = .tick then
      match takeDue s.host.due with
      | some (w, _) => some (.write w.port w.byte)
      | none => some .tick
    else some op

/-- Whether an operation has a meaning on a running engine of a variant: all have, but for a second `construct`
(which ends that engine), the absent stereo port (R101), mono from a stereo variant (R168), and a sample rate
of 0 (R6). That `generate` of mono samples on a stereo variant and `writeAt` are among those that have one is the
model's choice (logs 13, 22). -/
def HostOp.hasMeaning (c : Config) : HostOp → Bool
  | .construct _ _ => false
  | .write .main _ => true
  | .write .stereo _ => c.hasStereo
  | .tick => true
  | .reset => true
  | .isReady => true
  | .mix .native => true
  | .mix .mono => !c.hasStereo
  | .mix .stereo => true
  | .generate _ rate _ => rate != 0
  | .writeAt _ _ _ => true

/-- The operations of spec 44_engine.md R197, which have no meaning without an engine. -/
def HostOp.needsEngine : HostOp → Bool
  | .construct _ _ => false
  | .write _ _ => true
  | .tick => true
  | .reset => true
  | .isReady => true
  | .mix _ => true
  | .generate _ _ _ => true
  | .writeAt _ _ _ => false

/-- The operation that builds an engine. -/
def HostOp.isConstruct : HostOp → Bool
  | .construct _ _ => true
  | .write _ _ => false
  | .tick => false
  | .reset => false
  | .isReady => false
  | .mix _ => false
  | .generate _ _ _ => false
  | .writeAt _ _ _ => false

end Sys2Proof.Machine
end

