-- ==== Sys2Proof/Certificates/Slice0/Obligations.lean ====
section
/-! DEFINITION. The statements for the provers. Each docstring names the rules of spec/ it formalises; a clause that rests
on a choice of the model names its log entry. -/

open Sys2Proof Sys2Proof.Machine

/-! Encoding -/

/-- R70 to R74, R81: the byte of an instruction decodes to that instruction, with every operand at every value. -/
def Obligations.DecodeOfEncode : Prop :=
  ∀ i : Instr, decode (encode i).1 (encode i).2 = i

/-- R79: every byte on either port is the byte of one instruction, the one it decodes to. -/
def Obligations.EncodeOfDecode : Prop :=
  ∀ (p : Port) (b : Byte), encode (decode p b) = (p, b)

/-- R80: each byte on a port matches exactly one row of the table, that of the instruction it decodes to; the
ranges of the rows are those the rule gives. -/
def Obligations.OneTableRowPerByte : Prop :=
  (∀ (p : Port) (b : Byte),
    (opcodeTable.filter (fun row => row.matchesWrite p b)).map OpRow.mnemonic = [(decode p b).mnemonic]) ∧
  (∀ b : Byte, b.toNat ≤ 0x7F → (decode .main b).mnemonic = "DATA") ∧
  (∀ (r : Fin 8) (d : Fin 16), (decode .main (BitVec.ofNat 8 (0x80 + 16 * r.val + d.val))).mnemonic =
    ["LATCH.T0F", "LATCH.T0A", "LATCH.T1F", "LATCH.T1A", "LATCH.T2F", "LATCH.T2A", "LATCH.NCTL",
      "LATCH.NATT"][r.val]) ∧
  (∀ b : Byte, (decode .stereo b).mnemonic = "STEREO")

/-- R52: every access is exactly one byte, and an access of none or of more is refused by name. -/
def Obligations.AccessIsOneByte : Prop :=
  (∀ (p : Port) (b : Byte), decodeBytes p [b] = .ok (decode p b)) ∧
  (∀ p : Port, decodeBytes p [] = .error .noByte) ∧
  (∀ (p : Port) (l : List Byte), 2 ≤ l.length → decodeBytes p l = .error .widerThanOneByte)

/-- Words written out bit by bit from the encodings of R92 to R101, one of every row. -/
def Obligations.WordsWrittenOut : Prop :=
  decode .main 0b10000101 = .latchT0F 0b0101 ∧ decode .main 0b10011111 = .latchT0A 0b1111 ∧
  decode .main 0b10101100 = .latchT1F 0b1100 ∧ decode .main 0b10110010 = .latchT1A 0b0010 ∧
  decode .main 0b11000001 = .latchT2F 0b0001 ∧ decode .main 0b11010111 = .latchT2A 0b0111 ∧
  decode .main 0b11101100 = .latchNctl 0b1100 ∧ decode .main 0b11110011 = .latchNatt 0b0011 ∧
  decode .main 0b01101010 = .data 0b1 0b101010 ∧ decode .stereo 0b10000100 = .stereo 0b10000100

/-- R78: bit 6 of a data byte and bit 3 of a noise control byte are ignored; no bit of a stereo byte is. -/
def Obligations.IgnoredBitsDoNothing : Prop :=
  (∀ (x : BitVec 1) (h : BitVec 6) (s : State), exec (.data x h) s = exec (.data 0 h) s) ∧
  (∀ (d : BitVec 4) (s : State), exec (.latchNctl d) s = exec (.latchNctl (d &&& 0b0111)) s) ∧
  (∀ (m m' : BitVec 8) (s : State) (e : Engine), s.engine = some e → e.cfg.hasStereo = true →
    exec (.stereo m) s = exec (.stereo m') s → m = m')

/-! The step and the writes -/

/-- R32, R50, R57: when the host's next operation is a write, the step runs the instruction the byte decodes to, on
the state with that operation taken off the host's list (the list is the model's, log 3); and the state the
interface's `withFetchWord` builds is one whose next operation is that write (the port's place in the word is
the model's, log 4). -/
def Obligations.StepRunsDecodedWrite : Prop :=
  (∀ (s : State) (i : Instr) (rest : List HostOp),
    s.host.inputs = .write (encode i).1 (encode i).2 :: rest →
    step s = exec i { s with host := { s.host with inputs := rest } }) ∧
  (∀ (s : State) (p : Port) (b : Byte), step (s.pushInputs [.write p b]) = exec (decode p b) s) ∧
  (∀ (s : State) (b : Byte), step (s.withFetchWord 8 b.toNat) = exec (decode .main b) s) ∧
  (∀ (s : State) (b : Byte), step (s.withFetchWord 16 (256 + b.toNat)) = exec (decode .stereo b) s)

/-- R91, R92, R94, R96: a latch byte to a frequency register completes; it sets the low 4 bits, keeps or clears the
high 6 bits by the policy, sets `last_latched`, and changes nothing else but the ready line; the count in progress
runs out before the new period is used. -/
def Obligations.FrequencyLatchSetsLowBits : Prop :=
  ∀ (d : BitVec 4) (s : State) (e : Engine), s.engine = some e →
    (decode .main (0x80#8 ||| d.setWidth 8) = .latchT0F d ∧
      ∃ e', exec (.latchT0F d) s = .next (s.withEngine e') ∧ Engine.FreqLatched 0 d e e' ∧
        e.CountRunsOut .t0 e') ∧
    (decode .main (0xA0#8 ||| d.setWidth 8) = .latchT1F d ∧
      ∃ e', exec (.latchT1F d) s = .next (s.withEngine e') ∧ Engine.FreqLatched 2 d e e' ∧
        e.CountRunsOut .t1 e') ∧
    (decode .main (0xC0#8 ||| d.setWidth 8) = .latchT2F d ∧
      ∃ e', exec (.latchT2F d) s = .next (s.withEngine e') ∧ Engine.FreqLatched 4 d e e' ∧
        e.CountRunsOut .t2 e')

/-- R93, R95, R97, R99: a latch byte to an attenuation register completes; it stores all 4 bits, sets
`last_latched`, and changes nothing else but the ready line. A data byte after it is discarded, and code 15
silences the channel. -/
def Obligations.AttenuationLatchStoresCode : Prop :=
  ∀ (d : BitVec 4) (s : State) (e : Engine), s.engine = some e →
    (decode .main (0x90#8 ||| d.setWidth 8) = .latchT0A d ∧
      ∃ e', exec (.latchT0A d) s = .next (s.withEngine e') ∧ Engine.AttLatched 1 d e e' ∧
        s.DiscardsData e' ∧ (e.cfg.volumeTable[15] = 0 → d = 15 → e'.sig .tone0 = 0)) ∧
    (decode .main (0xB0#8 ||| d.setWidth 8) = .latchT1A d ∧
      ∃ e', exec (.latchT1A d) s = .next (s.withEngine e') ∧ Engine.AttLatched 3 d e e' ∧
        s.DiscardsData e' ∧ (e.cfg.volumeTable[15] = 0 → d = 15 → e'.sig .tone1 = 0)) ∧
    (decode .main (0xD0#8 ||| d.setWidth 8) = .latchT2A d ∧
      ∃ e', exec (.latchT2A d) s = .next (s.withEngine e') ∧ Engine.AttLatched 5 d e e' ∧
        s.DiscardsData e' ∧ (e.cfg.volumeTable[15] = 0 → d = 15 → e'.sig .tone2 = 0)) ∧
    (decode .main (0xF0#8 ||| d.setWidth 8) = .latchNatt d ∧
      ∃ e', exec (.latchNatt d) s = .next (s.withEngine e') ∧ Engine.AttLatched 7 d e e' ∧
        s.DiscardsData e' ∧ (e.cfg.volumeTable[15] = 0 → d = 15 → e'.sig .noise = 0))

/-- R98, R137, R139: a noise control byte completes; it stores `d[2:0]` and reseeds the shift register, whatever the
register held; the noise counter and every other register stay. Bit 3 of the data plays no part, and a data byte
after it is discarded. -/
def Obligations.NoiseControlLatchReseeds : Prop :=
  ∀ (d : BitVec 4) (s : State) (e : Engine), s.engine = some e →
    decode .main (0xE0#8 ||| d.setWidth 8) = .latchNctl d ∧
    ∃ e', exec (.latchNctl d) s = .next (s.withEngine e') ∧
      e'.reg 6 = (d.extractLsb' 0 3).setWidth 10 ∧
      e'.noise.lfsr = e.cfg.lfsrReset ∧ e'.noise.output = e.cfg.lfsrReset.testBit 0 ∧
      e'.lastLatched = some 6 ∧ e.MainWrite (some 6) e' ∧ s.DiscardsData e' ∧
      exec (.latchNctl (d ^^^ 0b1000)) s = exec (.latchNctl d) s

/-- R100: a data byte completes in every case. When the last latch named register 0, 2 or 4 it writes that
register's high 6 bits and keeps its low 4; otherwise no register changes. `last_latched` and the shift
register stay in both cases. -/
def Obligations.DataByteWritesHighBits : Prop :=
  ∀ (x : BitVec 1) (h : BitVec 6) (s : State) (e : Engine), s.engine = some e →
    decode .main ((x.setWidth 8 <<< 6) ||| h.setWidth 8) = .data x h ∧
    ∃ e', exec (.data x h) s = .next (s.withEngine e') ∧
      e'.lastLatched = e.lastLatched ∧ e.SameLfsr e' ∧
      (∀ r, e.lastLatched = some r → (r = 0 ∨ r = 2 ∨ r = 4) →
        (e'.reg r).extractLsb' 4 6 = h ∧ (e'.reg r).extractLsb' 0 4 = (e.reg r).extractLsb' 0 4 ∧
        e.MainWrite (some r) e') ∧
      ((∀ r, e.lastLatched = some r → ¬ (r = 0 ∨ r = 2 ∨ r = 4)) → e.MainWrite none e')

/-- R101: a stereo byte completes on a variant with stereo and writes the mask alone; on another variant it is
refused by name. The mask 0 makes both sides sum to 0. -/
def Obligations.StereoByteWritesMask : Prop :=
  ∀ (m : BitVec 8) (s : State) (e : Engine), s.engine = some e →
    decode .stereo m = .stereo m ∧
    (e.cfg.hasStereo = true → exec (.stereo m) s = .next (s.withEngine { e with stereoMask := m })) ∧
    (e.cfg.hasStereo = false → exec (.stereo m) s = .refused .stereoPortAbsent) ∧
    (m = 0 → Engine.left { e with stereoMask := m } = 0 ∧ Engine.right { e with stereoMask := m } = 0)

/-- R90: a write on `MAIN` runs the row its byte names, a latch byte the row its bits 6:4 select, a data byte `DATA`; it
restarts the ready line, and a latch byte sets `last_latched` to those bits, whatever the class of the register,
where a data byte keeps it. -/
def Obligations.MainWriteLatchesIndex : Prop :=
  ∀ (b : Byte) (s : State) (e : Engine), s.engine = some e →
    (b.getLsbD 7 = true → decode .main b =
      (let d := b.extractLsb' 0 4
       [Instr.latchT0F d, Instr.latchT0A d, Instr.latchT1F d, Instr.latchT1A d, Instr.latchT2F d,
        Instr.latchT2A d, Instr.latchNctl d, Instr.latchNatt d].getD (b.extractLsb' 4 3).toNat (Instr.latchNatt d))) ∧
    (b.getLsbD 7 = false → decode .main b = .data (b.extractLsb' 6 1) (b.extractLsb' 0 6)) ∧
    ∃ e', step (s.pushInputs [.write .main b]) = .next (s.withEngine e') ∧
      exec (decode .main b) s = .next (s.withEngine e') ∧ e.ReadyRestarted e' ∧
      e'.lastLatched = if b.getLsbD 7 then some (b.extractLsb' 4 3) else e.lastLatched

/-- R102: no write changes a tone counter, a tone output or the noise counter; the shift register and its output
change by `LATCH.NCTL` alone, which reseeds them. -/
def Obligations.WritesLeaveChannelStateAlone : Prop :=
  ∀ (i : Instr) (s t : State) (e : Engine), s.engine = some e → exec i s = .next t →
    ∃ e', t = s.withEngine e' ∧ e'.cfg = e.cfg ∧ e'.hostClockHz = e.hostClockHz ∧
      (∀ c, (e'.tone c).counter = (e.tone c).counter) ∧ (∀ c, (e'.tone c).output = (e.tone c).output) ∧
      e'.noise.counter = e.noise.counter ∧
      ((∀ d, i ≠ .latchNctl d) → e.SameLfsr e') ∧
      ((∃ d, i = .latchNctl d) →
        e'.noise.lfsr = e.cfg.lfsrReset ∧ e'.noise.output = e.cfg.lfsrReset.testBit 0)

/-- R76, R59: a latch byte then a data byte, with no tick between them, write every 10-bit period exactly, under both
policies and from every state; the next tick reads the whole period. -/
def Obligations.PeriodTakesTwoWrites : Prop :=
  ∀ (c : ToneId) (p : BitVec 10) (s : State) (e : Engine), s.engine = some e →
    ∃ e', Host.Core.run Sys2Proof.core 2 (s.pushInputs
        [.write .main (0x80#8 ||| (c.periodIndex.setWidth 8 <<< 4) ||| (p.extractLsb' 0 4).setWidth 8),
         .write .main ((p.extractLsb' 4 6).setWidth 8)]) = .next (s.withEngine e') ∧
      e'.reg c.periodIndex = p ∧ e.MainWrite (some c.periodIndex) e' ∧
      ((e.tone c).counter ≤ 1 → p ≠ 0 → (e'.tick.tone c).counter = p.toNat)

/-- R197: without an engine no instruction has a meaning. -/
def Obligations.ExecNeedsEngine : Prop :=
  ∀ (i : Instr) (s : State), s.engine = none → exec i s = .refused .noEngine

/-! Tone channels -/

/-- R110, R111: one tick of a tone channel. With `n = tone_counter - 1`, `n <= 0` reports an underflow, reloads the
effective period and flips the output, and otherwise the counter is `n`; the next underflow comes when the count
has run out; the registers stay. -/
def Obligations.ToneTickCountsOrReloads : Prop :=
  ∀ (s : State) (e : Engine) (c : ToneId), s.engine = some e → s.host.due = [] →
    ∃ e', step (s.pushInputs [.tick]) = .next (s.withEngine e') ∧
      (let n : Int := (e.tone c).counter - 1
       (n ≤ 0 →
        (e'.tone c).output = !(e.tone c).output ∧
        ((e.tone c).period ≠ 0 → (e'.tone c).counter = (e.tone c).period.toNat) ∧
        ((e.tone c).period = 0 → e.cfg.zeroPeriodPolicy = .treatAsMaximum → (e'.tone c).counter = 1024) ∧
        ((e.tone c).period = 0 → e.cfg.zeroPeriodPolicy = .treatAsOne → (e'.tone c).counter = 1)) ∧
       (¬ n ≤ 0 → ((e'.tone c).counter : Int) = n ∧ (e'.tone c).output = (e.tone c).output) ∧
       (toneTick e.cfg (e.tone c)).2 = decide (n ≤ 0)) ∧
      e'.CountRunsOut c e' ∧
      (∀ i, e'.reg i = e.reg i) ∧ e'.lastLatched = e.lastLatched ∧ e'.stereoMask = e.stereoMask

/-- R115, R116, R239: the frequency law. From a reload, while the effective period stays at `P`, the output flips at
exactly every `P`-th tick: after `n` ticks it has flipped `n / P` times; `2P` ticks are one whole wave; and the
wave's frequency is `host_clock_hz / (CLOCK_DIVIDER * 2 * P)`. -/
def Obligations.ToneFrequencyLaw : Prop :=
  ∀ (e : Engine) (c : ToneId), (e.tone c).counter = e.effPeriod c →
    (∀ n, ((e.ticks n).tone c).output = ((e.tone c).output ^^ decide (n / e.effPeriod c % 2 = 1))) ∧
    (∀ n, ((e.ticks n).tone c).counter = e.effPeriod c - n % e.effPeriod c) ∧
    (e.ticks (2 * e.effPeriod c)).tone c = e.tone c ∧
    ((e.tone c).period ≠ 0 → e.effPeriod c = (e.tone c).period.toNat) ∧
    ((e.tone c).period = 0 → e.cfg.zeroPeriodPolicy = .treatAsMaximum → e.effPeriod c = 1024) ∧
    ((e.tone c).period = 0 → e.cfg.zeroPeriodPolicy = .treatAsOne → e.effPeriod c = 1) ∧
    (1 ≤ e.cfg.clockDivider →
      e.toneFrequencyHz c * ((2 * e.effPeriod c : Nat) : Rat) = e.tickRateHz)

/-- R113: a write does not touch the count in progress. Whatever instruction runs, a channel's counter and output at
every later tick before the underflow are those it would have had, and at the underflow the period in force is
the new one. -/
def Obligations.PeriodWriteWaitsForUnderflow : Prop :=
  ∀ (i : Instr) (s t : State) (e e' : Engine) (c : ToneId), s.engine = some e → exec i s = .next t →
    t.engine = some e' → e.CountRunsOut c e'

/-- R117, its range: after a tick every tone counter is 1 to 1024, when it was at most 1024 before. -/
def Obligations.ToneCounterRange : Prop :=
  ∀ (e : Engine) (c : ToneId), (e.tone c).counter ≤ 1024 →
    1 ≤ (e.tick.tone c).counter ∧ (e.tick.tone c).counter ≤ 1024

/-- R114, R118: a channel's counter and output after any number of ticks depend on the configuration and on its own
period, counter and output alone: not on any attenuation and not on another channel. -/
def Obligations.ToneChannelsAreIndependent : Prop :=
  ∀ (e f : Engine) (c : ToneId) (n : Nat), f.cfg = e.cfg → (f.tone c).period = (e.tone c).period →
    (f.tone c).counter = (e.tone c).counter → (f.tone c).output = (e.tone c).output →
    ((f.ticks n).tone c).period = ((e.ticks n).tone c).period ∧
    ((f.ticks n).tone c).counter = ((e.ticks n).tone c).counter ∧
    ((f.ticks n).tone c).output = ((e.ticks n).tone c).output

/-- R112: a step that changes a tone output carries out a tick on which that channel underflows, or a reset, or a
`construct` (which builds another engine, R196). -/
def Obligations.ToneOutputChangesOnUnderflow : Prop :=
  ∀ (s t : State) (e e' : Engine) (c : ToneId), s.engine = some e → step s = .next t → t.engine = some e' →
    (e'.tone c).output ≠ (e.tone c).output →
    (s.nextOp = some .tick ∧ (e.tone c).counter ≤ 1) ∨ s.nextOp = some .reset ∨
      ∃ c' hz, s.nextOp = some (.construct c' hz)

/-! Noise channel -/

/-- R131, R132, R133: one shift. The feedback bit, computed from the old register, enters at bit `H`, every other bit
moves down by one, and the output is bit 0 of the new register. -/
def Obligations.NoiseShiftMovesBits : Prop :=
  ∀ (c : Config) (n : NoiseChannel), n.lfsr < 2 ^ c.width →
    (∀ i, (noiseShift c n).lfsr.testBit i =
      if i = c.highBit then
        (if n.control.getLsbD 2 then (n.lfsr.testBit c.tap1 != n.lfsr.testBit c.tap2) else n.lfsr.testBit c.tap1)
      else n.lfsr.testBit (i + 1)) ∧
    (noiseShift c n).lfsr < 2 ^ c.width ∧
    (noiseShift c n).output = (noiseShift c n).lfsr.testBit 0 ∧
    (noiseShift c n).counter = n.counter ∧ (noiseShift c n).control = n.control ∧
    (noiseShift c n).attenuation = n.attenuation

/-- R135, R136, R190: the noise channel in one engine tick. At a rate of 0 to 2 the counter runs down and on reaching 0
or less reloads the rate's divisor and shifts (a divisor above the 1024 that the counter holds reloads a free value in
its range, log 5); at rate 3 the channel shifts exactly when tone channel 2
underflows in this same tick, and its counter stays. -/
def Obligations.NoiseTickByRate : Prop :=
  ∀ (s : State) (e : Engine), s.engine = some e → s.host.due = [] →
    ∃ e', step (s.pushInputs [.tick]) = .next (s.withEngine e') ∧
      (∀ k d, (k, d) ∈ [(0, e.cfg.noiseDiv0), (1, e.cfg.noiseDiv1), (2, e.cfg.noiseDiv2)] →
        (e.noise.control.extractLsb' 0 2).toNat = k →
        ((e.noise.counter : Int) - 1 ≤ 0 →
          e'.noise = { noiseShift e.cfg e.noise with counter := noiseReload d } ∧
          (d ≤ 1024 → e'.noise.counter = d) ∧ e'.noise.counter ≤ 1024) ∧
        (¬ (e.noise.counter : Int) - 1 ≤ 0 → e'.noise = { e.noise with counter := e.noise.counter - 1 })) ∧
      ((e.noise.control.extractLsb' 0 2).toNat = 3 →
        ((e.tone .t2).counter ≤ 1 → e'.noise = noiseShift e.cfg e.noise) ∧
        (¬ (e.tone .t2).counter ≤ 1 → e'.noise = e.noise))

/-- R135, R239: at rate `k` of 0 to 2 a shift comes exactly every `NOISE_DIV[k]` ticks: from a reload, after `n` ticks
the channel has shifted `n / NOISE_DIV[k]` times. A divisor above the 1024 that the counter holds (R5) reloads a free
value, and the shifts come by that value, at 0 as at 1 on every tick (log 5). -/
def Obligations.NoiseShiftsEveryDivisor : Prop :=
  ∀ (e : Engine) (k d : Nat), (k, d) ∈ [(0, e.cfg.noiseDiv0), (1, e.cfg.noiseDiv1), (2, e.cfg.noiseDiv2)] →
    (noiseRate e.noise.control).toNat = k → 1 ≤ d →
    (d ≤ 1024 → e.noise.counter = d →
      ∀ n, (e.ticks n).noise = { (noiseShift e.cfg)^[n / d] e.noise with counter := d - n % d }) ∧
    (1024 < d → e.noise.counter = noiseReload d →
      ∀ n, (e.ticks n).noise =
        { (noiseShift e.cfg)^[n / max 1 (noiseReload d)] e.noise with
          counter := noiseReload d - n % max 1 (noiseReload d) })

/-- R136, R239: at rate 3, from every state, the shift register shifts once on each tick on which tone channel 2
underflows, which are the ticks on which its output flips, and on no other; the noise counter keeps its value. So
from a reload of channel 2 a shift comes every `eff_period(2)` ticks. -/
def Obligations.RateThreeFollowsToneTwo : Prop :=
  ∀ e : Engine, (noiseRate e.noise.control).toNat = 3 →
    (∀ n,
      (((e.ticks (n + 1)).tone .t2).output ≠ ((e.ticks n).tone .t2).output ↔ ((e.ticks n).tone .t2).counter ≤ 1) ∧
      (((e.ticks n).tone .t2).counter ≤ 1 → (e.ticks (n + 1)).noise = noiseShift e.cfg (e.ticks n).noise) ∧
      (¬ ((e.ticks n).tone .t2).counter ≤ 1 → (e.ticks (n + 1)).noise = (e.ticks n).noise) ∧
      (e.ticks n).noise.counter = e.noise.counter) ∧
    ((e.tone .t2).counter = e.effPeriod .t2 →
      ∀ n, (e.ticks n).noise = (noiseShift e.cfg)^[n / e.effPeriod .t2] e.noise)

/-- R134: a step that changes the noise output or the shift register carries out a tick that shifts once, a noise
control write, a reset, or a `construct` (which builds another engine, R196). -/
def Obligations.NoiseOutputChangesByShiftOrReseed : Prop :=
  ∀ (s t : State) (e e' : Engine), s.engine = some e → step s = .next t → t.engine = some e' →
    ¬ e.SameLfsr e' →
    (s.nextOp = some .tick ∧ ∃ k, e'.noise = { noiseShift e.cfg e.noise with counter := k }) ∨ (∃ b d, s.nextOp = some (.write .main b) ∧ decode .main b = .latchNctl d) ∨
      s.nextOp = some .reset ∨ ∃ c hz, s.nextOp = some (.construct c hz)

/-- R138: zero is a fixed point under both modes, until a reseed or a reset; and when `LFSR_RESET` is 0, no step but a
`construct` ever makes the noise output 1. -/
def Obligations.ZeroRegisterStaysZero : Prop :=
  (∀ e : Engine, e.noise.lfsr = 0 → e.noise.output = false →
    ∀ n, (e.ticks n).noise.lfsr = 0 ∧ (e.ticks n).noise.output = false) ∧
  (∀ (s t : State) (e : Engine), s.engine = some e → e.cfg.lfsrReset = 0 → e.noise.lfsr = 0 →
    e.noise.output = false → step s = .next t → (∀ c hz, s.nextOp ≠ some (.construct c hz)) →
    ∃ e', t.engine = some e' ∧ e'.cfg.lfsrReset = 0 ∧ e'.noise.lfsr = 0 ∧ e'.noise.output = false)

/-- R138: periodic mode with `TAP1 = 0` rotates the register right by one bit a shift, so `W` shifts give it back; all
ones stay all ones after each shift. -/
def Obligations.PeriodicTapZeroRotates : Prop :=
  ∀ (c : Config) (n : NoiseChannel), c.tap1 = 0 → noiseWhite n.control = false → n.lfsr < 2 ^ c.width →
    (∀ k i, i < c.width → ((noiseShift c)^[k] n).lfsr.testBit i = n.lfsr.testBit ((i + k) % c.width)) ∧
    ((noiseShift c)^[c.width] n).lfsr = n.lfsr ∧
    (n.lfsr = 2 ^ c.width - 1 → (noiseShift c n).lfsr = n.lfsr ∧ (noiseShift c n).output = true)

/-- R138: white mode with `TAP1 = TAP2` feeds back 0 always, so the register is 0 after `W` shifts and stays there. -/
def Obligations.WhiteEqualTapsDrain : Prop :=
  ∀ (c : Config) (n : NoiseChannel), c.tap1 = c.tap2 → noiseWhite n.control = true → n.lfsr < 2 ^ c.width →
    ∀ k, c.width ≤ k → ((noiseShift c)^[k] n).lfsr = 0

/-! Mixer -/

/-- R162: an input whose attenuation is 15 contributes exactly 0, so no output of the mixer depends on its output bit. -/
def Obligations.SilentChannelContributesNothing : Prop :=
  ∀ (e : Engine) (ch : Channel), e.cfg.volumeTable[15] = 0 → e.att ch = 15 →
    e.sig ch = 0 ∧
    ∀ f : Engine, f.cfg = e.cfg → f.stereoMask = e.stereoMask → (∀ ch', f.att ch' = e.att ch') →
      (∀ ch', ch' ≠ ch → f.out ch' = e.out ch') → ∀ r, f.mixFor r = e.mixFor r

/-- R163 to R168: a `mix` step answers the mono sum on a variant without stereo, the same sum twice when a pair is asked
for there, the two routed sums on a stereo variant, and refuses mono there by name. The engine is unchanged. -/
def Obligations.MixAnswersRequest : Prop :=
  ∀ (s : State) (e : Engine), s.engine = some e →
    (let sign : Bool → Int := fun b => if b then (if e.cfg.outputNegate then -1 else 1)
      else (if e.cfg.outputNegate then 1 else -1)
     let s0 := sign e.tone0.output * volume e.cfg e.tone0.attenuation
     let s1 := sign e.tone1.output * volume e.cfg e.tone1.attenuation
     let s2 := sign e.tone2.output * volume e.cfg e.tone2.attenuation
     let s3 := sign e.noise.output * volume e.cfg e.noise.attenuation
     let on : Nat → Int → Int := fun i v => if e.stereoMask.getLsbD i then v else 0
     let left := on 4 s0 + on 5 s1 + on 6 s2 + on 7 s3
     let right := on 0 s0 + on 1 s1 + on 2 s2 + on 3 s3
     let mono := s0 + s1 + s2 + s3
     (e.cfg.hasStereo = false →
       step (s.pushInputs [.mix .native]) = .next (s.answer (.sample (.mono mono))) ∧
       step (s.pushInputs [.mix .mono]) = .next (s.answer (.sample (.mono mono))) ∧
       step (s.pushInputs [.mix .stereo]) = .next (s.answer (.sample (.pair mono mono)))) ∧
     (e.cfg.hasStereo = true →
       step (s.pushInputs [.mix .native]) = .next (s.answer (.sample (.pair left right))) ∧
       step (s.pushInputs [.mix .stereo]) = .next (s.answer (.sample (.pair left right))) ∧
       step (s.pushInputs [.mix .mono]) = .refused .monoFromStereoVariant))

/-- R169: the mixer reads the outputs, the attenuations, the mask and the configuration, and nothing else. -/
def Obligations.MixReadsOnlyItsInputs : Prop :=
  ∀ (e f : Engine), e.SameToMixer f → ∀ r, f.mixFor r = e.mixFor r

/-- R170: nothing saturates or scales; every sum is at most four times the largest table entry in size. -/
def Obligations.MixIsBounded : Prop :=
  ∀ (e : Engine) (m : Int), (∀ a : BitVec 4, |volume e.cfg a| ≤ m) →
    |e.mono| ≤ 4 * m ∧ |e.left| ≤ 4 * m ∧ |e.right| ≤ 4 * m

/-! Ready line -/

/-- R191, R192: every write on `MAIN` restarts the countdown, a discarded data byte too; a tick counts it down by one and
makes the line ready on reaching 0; so after a write the line is busy for exactly `READY_CYCLES` ticks and ready
from then on. A `STEREO` write leaves the line alone, and without a ready line nothing changes it (R195). -/
def Obligations.BusyForReadyCycles : Prop :=
  (∀ (b : Byte) (s : State) (e : Engine), s.engine = some e →
    ∃ e', step (s.pushInputs [.write .main b]) = .next (s.withEngine e') ∧ e.ReadyRestarted e' ∧
      (e.cfg.hasReady = true → 1 ≤ e.cfg.readyCycles →
        ∀ n, (e'.ticks n).readyLine.ready = decide (e.cfg.readyCycles ≤ n))) ∧
  (∀ (m : BitVec 8) (s t : State) (e : Engine), s.engine = some e → exec (.stereo m) s = .next t →
    ∃ e', t.engine = some e' ∧ e'.readyLine = e.readyLine) ∧
  (∀ e : Engine,
    (e.cfg.hasReady = true → 0 < e.readyLine.cyclesToReady →
      e.tick.readyLine.cyclesToReady = e.readyLine.cyclesToReady - 1 ∧
      (e.readyLine.cyclesToReady = 1 → e.tick.readyLine.ready = true) ∧
      (1 < e.readyLine.cyclesToReady → e.tick.readyLine.ready = e.readyLine.ready)) ∧
    (e.cfg.hasReady = false ∨ e.readyLine.cyclesToReady = 0 → e.tick.readyLine = e.readyLine))

/-- R194: the ready line gates nothing. Two machines that differ in the ready line alone do the same under every
instruction and every tick, but for the ready line; and a `MAIN` write restarts the countdown of each, busy or not. -/
def Obligations.ReadyLineGatesNothing : Prop :=
  ∀ (s : State) (e f : Engine), s.engine = some e → e.SameButReady f →
    (∀ (i : Instr) (t : State), exec i s = .next t →
      ∃ e' f', t = s.withEngine e' ∧ exec i (s.withEngine f) = .next (s.withEngine f') ∧ e'.SameButReady f') ∧
    (∀ b : Byte, ∃ e' f', exec (decode .main b) s = .next (s.withEngine e') ∧ e.ReadyRestarted e' ∧
      exec (decode .main b) (s.withEngine f) = .next (s.withEngine f') ∧ f.ReadyRestarted f') ∧
    (∀ n, (e.ticks n).SameButReady (f.ticks n)) ∧
    (∀ r, f.mixFor r = e.mixFor r)

/-- R193: `is_ready` answers the ready state, true always on a variant without a ready line, and changes nothing of
the engine. -/
def Obligations.IsReadyAnswers : Prop :=
  ∀ (s : State) (e : Engine), s.engine = some e →
    (e.cfg.hasReady = true →
      step (s.pushInputs [.isReady]) = .next (s.answer (.ready e.readyLine.ready))) ∧
    (e.cfg.hasReady = false → step (s.pushInputs [.isReady]) = .next (s.answer (.ready true)))

/-! Engine, reset and construction -/

/-- R35, R230: reset puts every field at its value whatever the state was, keeps the configuration and the host clock
(R231), and sets `sample_acc` to 0; a `construct` that succeeds leaves the same. That the second `construct` replaces
a running engine is the model's choice (log 9), and so is that the host's held writes stay over both (log 13). -/
def Obligations.ResetSetsEveryField : Prop :=
  ∀ (s : State) (e : Engine), s.engine = some e →
    ∃ e', step (s.pushInputs [.reset]) =
        .next { engine := some e', host := { s.host with sampleAcc := 0 } } ∧
      e'.AtReset ∧ e'.cfg = e.cfg ∧ e'.hostClockHz = e.hostClockHz ∧
      ∀ (a : ConfigArgs) (hz : Int), a.Legal → 1 ≤ hz → ∃ f, step (s.pushInputs [.construct a hz]) =
        .next { engine := some f, host := { s.host with sampleAcc := 0 } } ∧ f.AtReset

/-- R35, R31: the interface's reset state is an engine that runs, every field at R35's value (its configuration is
the model's choice, log 1, and its idle host too, log 3). -/
def Obligations.ResetStateIsTheSpecs : Prop :=
  State.reset.power = .running ∧ ∃ e, State.reset.engine = some e ∧ e.AtReset ∧ e.cfg.Legal

/-- R232: after reset every attenuation is 15; a step keeps them there unless it writes an attenuation below 15; and with
all at 15 the mixer gives 0 (mono, or on both sides). The counters run from the first tick on. -/
def Obligations.SilentAfterReset : Prop :=
  (∀ e : Engine, e.AtReset → ∀ ch, e.att ch = 15) ∧
  (∀ (s t : State) (e : Engine), s.engine = some e → (∀ ch, e.att ch = 15) → step s = .next t →
    (∀ b : Byte, s.nextOp = some (.write .main b) → b.getLsbD 7 = true → b.getLsbD 4 = true →
      b.extractLsb' 0 4 = 15) →
    ∃ e', t.engine = some e' ∧ ∀ ch, e'.att ch = 15) ∧
  (∀ e : Engine, (∀ ch, e.att ch = 15) → e.cfg.volumeTable[15] = 0 →
    (e.cfg.hasStereo = true → e.mix = .pair 0 0) ∧ (e.cfg.hasStereo = false → e.mix = .mono 0)) ∧
  (∀ e : Engine, e.AtReset → (∀ c, (e.tick.tone c).counter = e.effPeriod c ∧ (e.tick.tone c).output = true) ∧
    e.tick.noise.lfsr = (noiseShift e.cfg e.noise).lfsr ∧
    (e.cfg.noiseDiv0 ≤ 1024 → e.tick.noise.counter = e.cfg.noiseDiv0))

/-- R196: the checks of `construct` on its arguments, integers, in their order, each with its error; when all pass, an
engine in the reset state and `sample_acc` at 0 (that the rest of the host side stays, its held writes too, is the
model's choice, logs 3 and 13). -/
def Obligations.ConstructChecksInOrder : Prop :=
  ∀ (a : ConfigArgs) (hz : Int) (s : State), s.engine = none →
    (let run := step (s.pushInputs [.construct a hz])
     ((¬ ∃ h : Nat, a.feedbackMask = 2 ^ h) → run = .fault (.configError .feedbackMaskNotPowerOfTwo)) ∧
     ∀ h : Nat, a.feedbackMask = 2 ^ h →
      (¬ (0 ≤ a.tap1 ∧ a.tap1 < h + 1 ∧ 0 ≤ a.tap2 ∧ a.tap2 < h + 1) → run = .fault (.configError .tapOutOfRange)) ∧
      (0 ≤ a.tap1 → a.tap1 < h + 1 → 0 ≤ a.tap2 → a.tap2 < h + 1 →
       (¬ (0 ≤ a.lfsrReset ∧ a.lfsrReset < 2 ^ (h + 1)) → run = .fault (.configError .resetValueOutOfRange)) ∧
       (0 ≤ a.lfsrReset → a.lfsrReset < 2 ^ (h + 1) →
        (a.clockDivider < 1 → run = .fault (.configError .badClockDivider)) ∧
        (1 ≤ a.clockDivider →
         (a.noiseDiv0 < 1 ∨ a.noiseDiv1 < 1 ∨ a.noiseDiv2 < 1 → run = .fault (.configError .badNoiseDivider)) ∧
         (1 ≤ a.noiseDiv0 → 1 ≤ a.noiseDiv1 → 1 ≤ a.noiseDiv2 →
          (a.volumeTable[15] ≠ 0 → run = .fault (.configError .silenceEntryNotZero)) ∧
          (a.volumeTable[15] = 0 →
           (a.hasReady = true → a.readyCycles < 1 → run = .fault (.configError .badReadyCycles)) ∧
           ((a.hasReady = false ∨ 1 ≤ a.readyCycles) →
            (hz < 1 → run = .fault (.configError .badHostClock)) ∧
            (1 ≤ hz → ∃ e', run = .next { engine := some e', host := { s.host with sampleAcc := 0 } } ∧
              e'.AtReset ∧ e'.cfg = a.config ∧ (e'.hostClockHz : Int) = hz))))))))

/-- R7: `construct` accepts its arguments (with a host clock of at least 1) exactly when they are legal, whether or not
the machine has an engine, and then the machine's engine is a new one, of that configuration (that an engine it had is
replaced is the model's choice, log 9). Every legal configuration can be asked for, and no other. -/
def Obligations.ConstructAcceptsLegalOnly : Prop :=
  (∀ (a : ConfigArgs) (hz : Int) (s : State),
    ((∃ t, step (s.pushInputs [.construct a hz]) = .next t) ↔ (a.Legal ∧ 1 ≤ hz)) ∧
    (∀ t, step (s.pushInputs [.construct a hz]) = .next t →
      ∃ e, t.engine = some e ∧ e.AtReset ∧ e.cfg = a.config ∧ e.cfg.Legal ∧ (e.hostClockHz : Int) = hz)) ∧
  (∀ c : Config, c.args.config = c ∧ (c.args.Legal ↔ c.Legal))

/-- R197: before `construct` succeeds the engine's operations have no meaning: each is refused by name, and none of
them makes an engine. -/
def Obligations.OperationsNeedEngine : Prop :=
  ∀ (s : State) (op : HostOp) (rest : List HostOp), s.engine = none → s.host.inputs = op :: rest →
    (op.needsEngine = true → step s = .refused .noEngine) ∧
    (∀ t, step s = .next t → t.engine.isSome = true → op.isConstruct = true)

/-- R210: on a constructed engine every operation the variant has goes through, and an engine still runs after it. R210
lists the writes, `tick`, `reset`, `is_ready` and `mix`; that a step of `generate` at a positive rate goes through too,
mono on a stereo variant included, which is refused at the first `mix` only, and a `writeAt`, is the model's choice
(logs 12, 13 and 22), and so is that a due held write is what a tick carries out (log 13). -/
def Obligations.RunningEngineNeverStops : Prop :=
  ∀ (s : State) (e : Engine) (op : HostOp), s.engine = some e → s.nextOp = some op →
    op.hasMeaning e.cfg = true → ∃ t, step s = .next t ∧ t.power = .running

/-- R211: the only error is `ConfigError`, raised by `construct` alone, and every refusal has its own ground. -/
def Obligations.StopsHaveTheirGround : Prop :=
  ∀ (s : State),
    (∀ r, step s = .fault r → ∃ c hz, s.nextOp = some (.construct c hz)) ∧
    (∀ r, step s = .refused r →
      (r = .noEngine ∧ s.engine = none) ∨
      (∃ e, s.engine = some e ∧ e.cfg.hasStereo = false ∧ r = .stereoPortAbsent ∧
        ∃ b, s.nextOp = some (.write .stereo b)) ∨
      (∃ e, s.engine = some e ∧ e.cfg.hasStereo = true ∧ r = .monoFromStereoVariant ∧
        s.nextOp = some (.mix .mono)) ∨
      (r = .sampleRateZero ∧ ∃ n q, s.nextOp = some (.generate n 0 q)))

/-- R198: no operation changes the configuration or the host clock of an engine, reset included (`construct` builds
another engine). -/
def Obligations.ConfigurationIsFixed : Prop :=
  ∀ (s t : State) (e : Engine), s.engine = some e → step s = .next t →
    (∀ c hz, s.nextOp ≠ some (.construct c hz)) →
    ∃ e', t.engine = some e' ∧ e'.cfg = e.cfg ∧ e'.hostClockHz = e.hostClockHz

/-- R22, R23, R24, R29: who writes what. A step that changes a register carries out a `MAIN` write or a reset; one that
changes `last_latched` a latch byte or a reset; one that changes a counter a tick or a reset; one that changes
the stereo mask a stereo write or a reset; a `construct` builds another engine. -/
def Obligations.FieldsChangeByTheirWriters : Prop :=
  ∀ (s t : State) (e e' : Engine), s.engine = some e → step s = .next t → t.engine = some e' →
    (∀ c hz, s.nextOp ≠ some (.construct c hz)) → s.nextOp ≠ some .reset →
    ((∃ i, e'.reg i ≠ e.reg i) → ∃ b, s.nextOp = some (.write .main b)) ∧
    (e'.lastLatched ≠ e.lastLatched → ∃ b, s.nextOp = some (.write .main b) ∧ b.getLsbD 7 = true) ∧
    ((∃ c, (e'.tone c).counter ≠ (e.tone c).counter) ∨ e'.noise.counter ≠ e.noise.counter →
      s.nextOp = some .tick) ∧
    (e'.stereoMask ≠ e.stereoMask → ∃ b, s.nextOp = some (.write .stereo b) ∧ e'.stereoMask = b)

/-- R216: while the host issues nothing, all state holds as it is. -/
def Obligations.IdleMachineHolds : Prop :=
  ∀ s : State, s.host.inputs = [] → step s = .next s

/-- R24 to R30: every configuration `construct` accepts gives an engine that meets the invariant, and so does the
interface's reset state. -/
def Obligations.InvariantHoldsAtReset : Prop :=
  (∀ (c : Config) (hz : Nat), c.Legal → 1 ≤ hz → (Engine.initial c hz).Inv) ∧ State.reset.Inv

/-- R24 to R30, R134, R195: every step, from every state that meets the invariant, keeps it: counters stay in their
ranges, the shift register in its width, `noise_out = lfsr[0]`, the ready line ready exactly when its countdown
is over, and the configuration legal. -/
def Obligations.StepKeepsInvariant : Prop :=
  ∀ s t : State, s.Inv → step s = .next t → t.Inv

/-- R199: what is saved, restored under the same configuration and host clock, is the engine that was saved, so every
later operation behaves as it would have; the mask is saved only on a stereo variant. -/
def Obligations.RestoreOfSave : Prop :=
  ∀ e : Engine, e.Inv →
    Engine.restore e.cfg e.hostClockHz e.save = e ∧
    (e.save.stereoMask.isSome = e.cfg.hasStereo)

/-! Sample generation and ordering -/

/-- R171, R172: from `sample_acc = 0`, with no write held, the steps of `generate(N)` run exactly
`floor(N * host_clock_hz / (CLOCK_DIVIDER * sample_rate_hz))` ticks and answer `N` samples, the `k`-th of them the
mixer's answer after `floor((k+1) * host_clock_hz / (CLOCK_DIVIDER * sample_rate_hz))` ticks, for every request
the variant answers. (That the loop runs in steps and takes a request is the model's choice, log 12.) -/
def Obligations.GenerateHasNoDrift : Prop :=
  ∀ (s : State) (e : Engine) (samples rate : Nat) (request : MixRequest), s.engine = some e → s.host.due = [] →
    s.host.sampleAcc = 0 → 1 ≤ rate → 1 ≤ e.cfg.clockDivider → (request = .mono → e.cfg.hasStereo = false) →
    ∃ (k : Nat) (v : Nat → Sample),
      (∀ j, (e.ticks ((j + 1) * e.hostClockHz / (e.cfg.clockDivider * rate))).mixFor request = .ok (v j)) ∧
      Host.Core.run Sys2Proof.core k (s.pushInputs [.generate samples rate request]) =
        .next { engine := some (e.ticks (samples * e.hostClockHz / (e.cfg.clockDivider * rate)))
                host :=
                  { s.host with
                    sampleAcc := samples * e.hostClockHz % (e.cfg.clockDivider * rate)
                    answers := s.host.answers ++ (List.range samples).map (fun j => .sample (v j)) } }

/-- R58: a write the host holds that is due before a tick is applied before that tick, which is still to come, wherever
it stands among writes that are not due, and the first of several; a held write that is not due does not stop the
tick, after which it is one tick nearer. (Holding writes is the model's form of the host's loop, log 13.) -/
def Obligations.DueWriteComesBeforeTick : Prop :=
  (∀ (s : State) (p : Port) (b : Byte) (pre rest : List DueWrite), s.host.due = pre ++ ⟨0, p, b⟩ :: rest →
    (∀ w ∈ pre, w.ticksLeft ≠ 0) →
    step (s.pushInputs [.tick]) =
      exec (decode p b) ({ s with host := { s.host with due := pre ++ rest } }.pushInputs [.tick])) ∧
  (∀ (s : State) (e : Engine), s.engine = some e → (∀ w ∈ s.host.due, w.ticksLeft ≠ 0) →
    step (s.pushInputs [.tick]) =
      .next { engine := some e.tick
              host := { s.host with due := s.host.due.map (fun w => { w with ticksLeft := w.ticksLeft - 1 }) } })

/-- R5: the tone counters and the noise counter stay in 0 to 1024, 11 bits, over every step, whatever the divisors are, and
a new engine starts in that range. (What the noise counter holds after a reload at a divisor above 1024 is a free
value in the range, log 5.) -/
def Obligations.CountersHoldElevenBits : Prop :=
  ∀ s t : State, (∀ e, s.engine = some e → (∀ c, (e.tone c).counter ≤ 1024) ∧ e.noise.counter ≤ 1024) →
    step s = .next t →
    ∀ e', t.engine = some e' → (∀ c, (e'.tone c).counter ≤ 1024) ∧ e'.noise.counter ≤ 1024
end

