-- ==== Sys2Proof/Laws/Construct.lean ====
section
/-! SUPPORT. When `construct` goes through, and that the arguments of a configuration ask for it (spec 44_engine.md
R196, 00_scope.md R7). -/

namespace Sys2Proof

@[simp] theorem Config.args_config (c : Config) : c.args.config = c := rfl

/-- What is legal of the arguments is legal of the record the engine holds. -/
theorem ConfigArgs.config_legal {a : ConfigArgs} (h : a.Legal) : a.config.Legal := by
  obtain ⟨hm, ⟨h1, h1'⟩, ⟨h2, h2'⟩, ⟨h3, h3'⟩, h4, h5, h6, h7, h8, h9⟩ := h
  have hw : a.config.width = a.width := rfl
  refine ⟨?_, ?_, ?_, ?_, ?_, ?_, ?_, ?_, h8, fun hr => ?_⟩
  · change a.feedbackMask.toNat = 2 ^ a.highBit
    have : ((a.feedbackMask.toNat : Nat) : Int) = ((2 ^ a.highBit : Nat) : Int) := by
      push_cast
      rw [← hm, Int.toNat_of_nonneg (by rw [hm]; positivity)]
    exact_mod_cast this
  · rw [hw]; change a.tap1.toNat < a.width; omega
  · rw [hw]; change a.tap2.toNat < a.width; omega
  · rw [hw]
    change a.lfsrReset.toNat < 2 ^ a.width
    exact (Int.toNat_lt h3).mpr (by push_cast; exact h3')
  · change 1 ≤ a.clockDivider.toNat; omega
  · change 1 ≤ a.noiseDiv0.toNat; omega
  · change 1 ≤ a.noiseDiv1.toNat; omega
  · change 1 ≤ a.noiseDiv2.toNat; omega
  · have := h9 hr
    change 1 ≤ a.readyCycles.toNat; omega

/-- The legal configurations are those whose arguments are legal. -/
theorem Config.args_legal {c : Config} : c.args.Legal ↔ c.Legal := by
  refine ⟨fun h => ConfigArgs.config_legal h, ?_⟩
  rintro ⟨hm, h1, h2, h3, h4, h5, h6, h7, h8, h9⟩
  have hw : c.args.width = c.width := rfl
  refine ⟨?_, ⟨?_, ?_⟩, ⟨?_, ?_⟩, ⟨?_, ?_⟩, ?_, ?_, ?_, ?_, h8, fun hr => ?_⟩
  · change (c.feedbackMask : Int) = 2 ^ c.highBit
    exact_mod_cast hm
  · exact Int.natCast_nonneg _
  · exact Int.ofNat_lt.mpr h1
  · exact Int.natCast_nonneg _
  · exact Int.ofNat_lt.mpr h2
  · exact Int.natCast_nonneg _
  · rw [hw]; change (c.lfsrReset : Int) < 2 ^ c.width; exact_mod_cast h3
  · exact Int.ofNat_le.mpr h4
  · exact Int.ofNat_le.mpr h5
  · exact Int.ofNat_le.mpr h6
  · exact Int.ofNat_le.mpr h7
  · exact Int.ofNat_le.mpr (h9 hr)

namespace Machine

/-- `construct` raises no error exactly for legal arguments and a positive host clock. -/
theorem checkConfig_eq_none {a : ConfigArgs} {hz : Int} : checkConfig a hz = none ↔ a.Legal ∧ 1 ≤ hz := by
  unfold checkConfig ConfigArgs.Legal
  cases hr : a.hasReady <;> (repeat' split) <;> simp_all

theorem doConstruct_of_legal {a : ConfigArgs} {hz : Int} (h : a.Legal) (h1 : 1 ≤ hz) (s : State) :
    doConstruct a hz s =
      .next { engine := some (Engine.initial a.config hz.toNat), host := { s.host with sampleAcc := 0 } } := by
  simp only [doConstruct, checkConfig_eq_none.mpr ⟨h, h1⟩]

end Machine

end Sys2Proof
end

