-- ==== Sys2Proof/Laws/Decode.lean ====
section
/-! SUPPORT. What a byte on `MAIN` can decode to. -/

namespace Sys2Proof

theorem decode_main_ne_stereo (b : Byte) (m : BitVec 8) : decode .main b ≠ .stereo m := by
  simp only [decode, decodeMain]
  split
  · simp only [decodeLatch]
    split <;> simp
  · simp

@[simp] theorem decode_stereo (b : Byte) : decode .stereo b = .stereo b := rfl

end Sys2Proof
end

