-- ==== Sys2Proof/Laws/State.lean ====
section
/-! SUPPORT. What each update of the state changes and what it leaves, field by field. -/

namespace Sys2Proof.Machine

section EngineFields
variable (e : Engine) (c c' : ToneId) (t : ToneChannel) (n : NoiseChannel) (r : BitVec 3) (m : BitVec 8)

@[simp] theorem Engine.tone_t0 : e.tone .t0 = e.tone0 := rfl
@[simp] theorem Engine.tone_t1 : e.tone .t1 = e.tone1 := rfl
@[simp] theorem Engine.tone_t2 : e.tone .t2 = e.tone2 := rfl

@[simp] theorem Engine.setTone_cfg : (e.setTone c t).cfg = e.cfg := by cases c <;> rfl
@[simp] theorem Engine.setTone_hostClockHz : (e.setTone c t).hostClockHz = e.hostClockHz := by cases c <;> rfl
@[simp] theorem Engine.setTone_noise : (e.setTone c t).noise = e.noise := by cases c <;> rfl
@[simp] theorem Engine.setTone_lastLatched : (e.setTone c t).lastLatched = e.lastLatched := by cases c <;> rfl
@[simp] theorem Engine.setTone_stereoMask : (e.setTone c t).stereoMask = e.stereoMask := by cases c <;> rfl
@[simp] theorem Engine.setTone_readyLine : (e.setTone c t).readyLine = e.readyLine := by cases c <;> rfl
theorem Engine.setTone_tone : (e.setTone c t).tone c' = if c' = c then t else e.tone c' := by
  cases c <;> cases c' <;> rfl
@[simp] theorem Engine.setTone_tone_self : (e.setTone c t).tone c = t := by cases c <;> rfl
@[simp] theorem Engine.setTone_tone_self' : e.setTone c (e.tone c) = e := by cases c <;> rfl

@[simp] theorem Engine.setNoise_cfg : (e.setNoise n).cfg = e.cfg := rfl
@[simp] theorem Engine.setNoise_hostClockHz : (e.setNoise n).hostClockHz = e.hostClockHz := rfl
@[simp] theorem Engine.setNoise_tone : (e.setNoise n).tone c = e.tone c := by cases c <;> rfl
@[simp] theorem Engine.setNoise_noise : (e.setNoise n).noise = n := rfl
@[simp] theorem Engine.setNoise_lastLatched : (e.setNoise n).lastLatched = e.lastLatched := rfl
@[simp] theorem Engine.setNoise_stereoMask : (e.setNoise n).stereoMask = e.stereoMask := rfl
@[simp] theorem Engine.setNoise_readyLine : (e.setNoise n).readyLine = e.readyLine := rfl

@[simp] theorem Engine.setLatched_cfg : (e.setLatched r).cfg = e.cfg := rfl
@[simp] theorem Engine.setLatched_hostClockHz : (e.setLatched r).hostClockHz = e.hostClockHz := rfl
@[simp] theorem Engine.setLatched_tone : (e.setLatched r).tone c = e.tone c := by cases c <;> rfl
@[simp] theorem Engine.setLatched_noise : (e.setLatched r).noise = e.noise := rfl
@[simp] theorem Engine.setLatched_lastLatched : (e.setLatched r).lastLatched = some r := rfl
@[simp] theorem Engine.setLatched_stereoMask : (e.setLatched r).stereoMask = e.stereoMask := rfl
@[simp] theorem Engine.setLatched_readyLine : (e.setLatched r).readyLine = e.readyLine := rfl

@[simp] theorem Engine.setStereo_cfg : (e.setStereo m).cfg = e.cfg := rfl
@[simp] theorem Engine.setStereo_hostClockHz : (e.setStereo m).hostClockHz = e.hostClockHz := rfl
@[simp] theorem Engine.setStereo_tone : (e.setStereo m).tone c = e.tone c := by cases c <;> rfl
@[simp] theorem Engine.setStereo_noise : (e.setStereo m).noise = e.noise := rfl
@[simp] theorem Engine.setStereo_lastLatched : (e.setStereo m).lastLatched = e.lastLatched := rfl
@[simp] theorem Engine.setStereo_stereoMask : (e.setStereo m).stereoMask = m := rfl
@[simp] theorem Engine.setStereo_readyLine : (e.setStereo m).readyLine = e.readyLine := rfl

@[simp] theorem Engine.startWrite_cfg : e.startWrite.cfg = e.cfg := rfl
@[simp] theorem Engine.startWrite_hostClockHz : e.startWrite.hostClockHz = e.hostClockHz := rfl
@[simp] theorem Engine.startWrite_tone : e.startWrite.tone c = e.tone c := by cases c <;> rfl
@[simp] theorem Engine.startWrite_noise : e.startWrite.noise = e.noise := rfl
@[simp] theorem Engine.startWrite_lastLatched : e.startWrite.lastLatched = e.lastLatched := rfl
@[simp] theorem Engine.startWrite_stereoMask : e.startWrite.stereoMask = e.stereoMask := rfl
@[simp] theorem Engine.startWrite_readyLine : e.startWrite.readyLine = readyOnWrite e.cfg e.readyLine := rfl

@[simp] theorem Engine.setNoise_tone0 : (e.setNoise n).tone0 = e.tone0 := rfl
@[simp] theorem Engine.setNoise_tone1 : (e.setNoise n).tone1 = e.tone1 := rfl
@[simp] theorem Engine.setNoise_tone2 : (e.setNoise n).tone2 = e.tone2 := rfl
@[simp] theorem Engine.setLatched_tone0 : (e.setLatched r).tone0 = e.tone0 := rfl
@[simp] theorem Engine.setLatched_tone1 : (e.setLatched r).tone1 = e.tone1 := rfl
@[simp] theorem Engine.setLatched_tone2 : (e.setLatched r).tone2 = e.tone2 := rfl
@[simp] theorem Engine.setStereo_tone0 : (e.setStereo m).tone0 = e.tone0 := rfl
@[simp] theorem Engine.setStereo_tone1 : (e.setStereo m).tone1 = e.tone1 := rfl
@[simp] theorem Engine.setStereo_tone2 : (e.setStereo m).tone2 = e.tone2 := rfl
@[simp] theorem Engine.startWrite_tone0 : e.startWrite.tone0 = e.tone0 := rfl
@[simp] theorem Engine.startWrite_tone1 : e.startWrite.tone1 = e.tone1 := rfl
@[simp] theorem Engine.startWrite_tone2 : e.startWrite.tone2 = e.tone2 := rfl

@[simp] theorem Engine.tick_cfg : e.tick.cfg = e.cfg := rfl
@[simp] theorem Engine.tick_hostClockHz : e.tick.hostClockHz = e.hostClockHz := rfl
@[simp] theorem Engine.tick_tone : e.tick.tone c = (toneTick e.cfg (e.tone c)).1 := by cases c <;> rfl
@[simp] theorem Engine.tick_noise : e.tick.noise = noiseTick e.cfg (toneTick e.cfg (e.tone .t2)).2 e.noise := rfl
@[simp] theorem Engine.tick_lastLatched : e.tick.lastLatched = e.lastLatched := rfl
@[simp] theorem Engine.tick_stereoMask : e.tick.stereoMask = e.stereoMask := rfl
@[simp] theorem Engine.tick_readyLine : e.tick.readyLine = readyTick e.cfg e.readyLine := rfl

@[simp] theorem Engine.doReset_eq : e.doReset = Engine.initial e.cfg e.hostClockHz := rfl

/-- Two engines with the same fields are the same engine. -/
theorem Engine.eq_of_fields {e e' : Engine} (hcfg : e.cfg = e'.cfg) (hhz : e.hostClockHz = e'.hostClockHz)
    (htone : ∀ c, e.tone c = e'.tone c) (hnoise : e.noise = e'.noise) (hlatched : e.lastLatched = e'.lastLatched)
    (hmask : e.stereoMask = e'.stereoMask) (hready : e.readyLine = e'.readyLine) : e = e' := by
  have h0 := htone .t0
  have h1 := htone .t1
  have h2 := htone .t2
  cases e
  cases e'
  simp_all

end EngineFields

section StateFields
variable (s : State) (e e' : Engine) (ops : List HostOp) (a : Answer)

@[simp] theorem State.withEngine_engine : (s.withEngine e).engine = some e := rfl
@[simp] theorem State.withEngine_host : (s.withEngine e).host = s.host := rfl
@[simp] theorem State.withEngine_withEngine : (s.withEngine e).withEngine e' = s.withEngine e' := rfl
@[simp] theorem State.pushInputs_engine : (s.pushInputs ops).engine = s.engine := rfl
@[simp] theorem State.pushInputs_inputs : (s.pushInputs ops).host.inputs = ops ++ s.host.inputs := rfl
@[simp] theorem State.pushInputs_due : (s.pushInputs ops).host.due = s.host.due := rfl
@[simp] theorem State.pushInputs_sampleAcc : (s.pushInputs ops).host.sampleAcc = s.host.sampleAcc := rfl
@[simp] theorem State.pushInputs_answers : (s.pushInputs ops).host.answers = s.host.answers := rfl
@[simp] theorem State.answer_engine : (s.answer a).engine = s.engine := rfl
@[simp] theorem State.answer_inputs : (s.answer a).host.inputs = s.host.inputs := rfl
@[simp] theorem State.answer_due : (s.answer a).host.due = s.host.due := rfl
@[simp] theorem State.answer_sampleAcc : (s.answer a).host.sampleAcc = s.host.sampleAcc := rfl
@[simp] theorem State.answer_answers : (s.answer a).host.answers = s.host.answers ++ [a] := rfl

/-- Putting back the engine that is there changes nothing. -/
theorem State.withEngine_self {s : State} {e : Engine} (h : s.engine = some e) : s.withEngine e = s := by
  cases s
  simp_all [State.withEngine]

end StateFields

end Sys2Proof.Machine
end

