-- ==== Sys2Proof/Laws/Mixer.lean ====
section
/-! SUPPORT. The routed sums term by term, the sign of an output bit, and what the mixer's answers depend on (spec
43_mixer.md). -/

namespace Sys2Proof.Machine

theorem polarity_eq (negate bit : Bool) :
    polarity negate bit = if bit then (if negate then -1 else 1) else (if negate then 1 else -1) := by
  cases negate <;> cases bit <;> rfl

/-- A sum over the enabled channels is the sum over all of them with the others at 0. -/
theorem sum_filter_eq (enabled : Channel → Bool) (f : Channel → Int) (l : List Channel) :
    ((l.filter enabled).map f).sum = (l.map (fun ch => if enabled ch then f ch else 0)).sum := by
  induction l with
  | nil => rfl
  | cons ch l ih => cases h : enabled ch <;> simp [h, ih]

/-- Engines with the same configuration, mask and signals get the same answer to every request. -/
theorem mixFor_congr {e f : Engine} (hcfg : f.cfg = e.cfg) (hmask : f.stereoMask = e.stereoMask)
    (hsig : ∀ ch, f.sig ch = e.sig ch) (request : MixRequest) : f.mixFor request = e.mixFor request := by
  have h1 : f.sig = e.sig := funext hsig
  have h2 : f.leftEnabled = e.leftEnabled := by
    funext ch
    simp [Engine.leftEnabled, hmask]
  have h3 : f.rightEnabled = e.rightEnabled := by
    funext ch
    simp [Engine.rightEnabled, hmask]
  simp only [Engine.mixFor, Engine.mix, Engine.mono, Engine.left, Engine.right, h1, h2, h3, hcfg]

end Sys2Proof.Machine
end

