-- ==== Sys2Proof/Laws/Ops.lean ====
section
/-! SUPPORT. What each shared operation can do, said once: the engine lift, the meanings on a machine with an engine,
the tone, noise and ready ticks, and the register view. -/

namespace Sys2Proof.Machine

/-! The engine lift -/

@[simp] theorem onEngine_some {f : Engine → Engine} {s : State} {e : Engine} (h : s.engine = some e) :
    onEngine f s = .next (s.withEngine (f e)) := by simp [onEngine, h]

@[simp] theorem onEngine_none {f : Engine → Engine} {s : State} (h : s.engine = none) :
    onEngine f s = .refused .noEngine := by simp [onEngine, h]

/-! The instructions on an engine -/

/-- What an instruction does to an engine, the stereo write included, as one function of the engine. -/
def Engine.after (e : Engine) : Instr → Engine
  | .latchT0F d => e.latchFreq .t0 d
  | .latchT0A d => e.latchAtt .t0 d
  | .latchT1F d => e.latchFreq .t1 d
  | .latchT1A d => e.latchAtt .t1 d
  | .latchT2F d => e.latchFreq .t2 d
  | .latchT2A d => e.latchAtt .t2 d
  | .latchNctl d => e.latchNoiseControl d
  | .latchNatt d => e.latchNoiseAtt d
  | .data _ h => e.dataByte h
  | .stereo m => e.setStereo m

/-- On a machine with an engine an instruction either runs as `Engine.after` says, or is the stereo write of a
variant without stereo. -/
theorem exec_some {i : Instr} {s : State} {e : Engine} (h : s.engine = some e) :
    exec i s = .next (s.withEngine (e.after i)) ∨
      (exec i s = .refused .stereoPortAbsent ∧ e.cfg.hasStereo = false ∧ ∃ m, i = .stereo m) := by
  cases i <;>
    simp [exec, execLatchT0F, execLatchT0A, execLatchT1F, execLatchT1A, execLatchT2F, execLatchT2A,
      execLatchNctl, execLatchNatt, execData, execStereo, Engine.after, h]

/-- An instruction that answers a next state did so on an engine, as `Engine.after` says. -/
theorem exec_next {i : Instr} {s t : State} (h : exec i s = .next t) :
    ∃ e, s.engine = some e ∧ t = s.withEngine (e.after i) := by
  cases he : s.engine with
  | none =>
    exfalso
    revert h
    cases i <;>
      simp [exec, execLatchT0F, execLatchT0A, execLatchT1F, execLatchT1A, execLatchT2F, execLatchT2A,
        execLatchNctl, execLatchNatt, execData, execStereo, he]
  | some e =>
    refine ⟨e, rfl, ?_⟩
    rcases exec_some (i := i) he with h' | ⟨h', -⟩ <;> rw [h'] at h <;> cases h
    rfl

theorem exec_main_next {i : Instr} {s : State} {e : Engine} (h : s.engine = some e) (hi : ∀ m, i ≠ .stereo m) :
    exec i s = .next (s.withEngine (e.after i)) := by
  rcases exec_some (i := i) h with h' | ⟨-, -, m, hm⟩
  · exact h'
  · exact absurd hm (hi m)

/-! What the meanings do to the engine's fields -/

section Fields
variable (e : Engine) (i : Instr)

@[simp] theorem Engine.after_cfg : (e.after i).cfg = e.cfg := by
  cases i <;> simp [Engine.after, Engine.latchFreq, Engine.latchAtt, Engine.latchNoiseControl,
    Engine.latchNoiseAtt, Engine.dataByte, Engine.setPeriod, Engine.setAtt]
  split <;> simp

@[simp] theorem Engine.after_hostClockHz : (e.after i).hostClockHz = e.hostClockHz := by
  cases i <;> simp [Engine.after, Engine.latchFreq, Engine.latchAtt, Engine.latchNoiseControl,
    Engine.latchNoiseAtt, Engine.dataByte, Engine.setPeriod, Engine.setAtt]
  split <;> simp

@[simp] theorem Engine.after_counter (c : ToneId) : ((e.after i).tone c).counter = (e.tone c).counter := by
  cases i <;> simp only [Engine.after, Engine.latchFreq, Engine.latchAtt, Engine.latchNoiseControl,
    Engine.latchNoiseAtt, Engine.dataByte, Engine.setPeriod, Engine.setAtt] <;> (try split) <;>
    simp [Engine.setTone_tone] <;> split <;> simp_all

@[simp] theorem Engine.after_output (c : ToneId) : ((e.after i).tone c).output = (e.tone c).output := by
  cases i <;> simp only [Engine.after, Engine.latchFreq, Engine.latchAtt, Engine.latchNoiseControl,
    Engine.latchNoiseAtt, Engine.dataByte, Engine.setPeriod, Engine.setAtt] <;> (try split) <;>
    simp [Engine.setTone_tone] <;> split <;> simp_all

@[simp] theorem Engine.after_noiseCounter : (e.after i).noise.counter = e.noise.counter := by
  cases i <;> simp [Engine.after, Engine.latchFreq, Engine.latchAtt, Engine.latchNoiseControl,
    Engine.latchNoiseAtt, Engine.dataByte, Engine.setPeriod, Engine.setAtt, noiseReseed]
  split <;> simp

theorem Engine.after_lfsr (hi : ∀ d, i ≠ .latchNctl d) :
    (e.after i).noise.lfsr = e.noise.lfsr ∧ (e.after i).noise.output = e.noise.output := by
  cases i <;> simp_all [Engine.after, Engine.latchFreq, Engine.latchAtt,
    Engine.latchNoiseAtt, Engine.dataByte, Engine.setPeriod, Engine.setAtt]
  split <;> simp

theorem Engine.after_readyLine (hi : ∀ m, i ≠ .stereo m) :
    (e.after i).readyLine = readyOnWrite e.cfg e.readyLine := by
  cases i <;> simp_all [Engine.after, Engine.latchFreq, Engine.latchAtt, Engine.latchNoiseControl,
    Engine.latchNoiseAtt, Engine.dataByte, Engine.setPeriod, Engine.setAtt]
  split <;> simp

theorem Engine.after_stereoMask (hi : ∀ m, i ≠ .stereo m) : (e.after i).stereoMask = e.stereoMask := by
  cases i <;> simp_all [Engine.after, Engine.latchFreq, Engine.latchAtt, Engine.latchNoiseControl,
    Engine.latchNoiseAtt, Engine.dataByte, Engine.setPeriod, Engine.setAtt]
  split <;> simp

end Fields

/-! The ticks of the parts -/

/-- A tone tick reloads and flips, or counts down. -/
theorem toneTick_cases (c : Config) (t : ToneChannel) :
    (t.counter ≤ 1 ∧ toneTick c t =
      ({ t with counter := effPeriod c.zeroPeriodPolicy t.period, output := !t.output }, true)) ∨
    (1 < t.counter ∧ toneTick c t = ({ t with counter := t.counter - 1 }, false)) := by
  unfold toneTick
  split
  · exact .inl ⟨‹_›, rfl⟩
  · exact .inr ⟨by omega, rfl⟩

@[simp] theorem toneTick_period (c : Config) (t : ToneChannel) : (toneTick c t).1.period = t.period := by
  rcases toneTick_cases c t with ⟨-, h⟩ | ⟨-, h⟩ <;> rw [h]

@[simp] theorem toneTick_attenuation (c : Config) (t : ToneChannel) :
    (toneTick c t).1.attenuation = t.attenuation := by
  rcases toneTick_cases c t with ⟨-, h⟩ | ⟨-, h⟩ <;> rw [h]

@[simp] theorem toneTick_underflow (c : Config) (t : ToneChannel) :
    (toneTick c t).2 = decide (t.counter ≤ 1) := by
  rcases toneTick_cases c t with ⟨h1, h⟩ | ⟨h1, h⟩ <;> rw [h] <;> simp <;> omega

theorem effPeriod_of_ne_zero (policy : ZeroPeriodPolicy) {p : BitVec 10} (hp : p ≠ 0) :
    effPeriod policy p = p.toNat := if_neg hp

@[simp] theorem effPeriod_treatAsMaximum_zero : effPeriod .treatAsMaximum 0 = 1024 := rfl

@[simp] theorem effPeriod_treatAsOne_zero : effPeriod .treatAsOne 0 = 1 := rfl

theorem effPeriod_pos (policy : ZeroPeriodPolicy) (p : BitVec 10) : 1 ≤ effPeriod policy p := by
  unfold effPeriod
  split
  · cases policy <;> simp
  · have : p.toNat ≠ 0 := fun h => ‹¬ p = 0› (BitVec.eq_of_toNat_eq (by simpa using h))
    omega

theorem effPeriod_le (policy : ZeroPeriodPolicy) (p : BitVec 10) : effPeriod policy p ≤ 1024 := by
  unfold effPeriod
  split
  · cases policy <;> simp
  · have := p.isLt
    omega

@[simp] theorem noiseShift_control (c : Config) (n : NoiseChannel) : (noiseShift c n).control = n.control := rfl
@[simp] theorem noiseShift_attenuation (c : Config) (n : NoiseChannel) :
    (noiseShift c n).attenuation = n.attenuation := rfl
@[simp] theorem noiseShift_counter (c : Config) (n : NoiseChannel) : (noiseShift c n).counter = n.counter := rfl
theorem noiseShift_output (c : Config) (n : NoiseChannel) :
    (noiseShift c n).output = (noiseShift c n).lfsr.testBit 0 := rfl

/-- The counter plays no part in a shift. -/
theorem noiseShift_setCounter (c : Config) (n : NoiseChannel) (k : Nat) :
    noiseShift c { n with counter := k } = { noiseShift c n with counter := k } := rfl

theorem noiseReload_of_le {d : Nat} (h : d ≤ 1024) : noiseReload d = d := if_pos h

/-- The counter's range (R5), whatever the divisor. -/
theorem noiseReload_le (d : Nat) : noiseReload d ≤ 1024 := by
  unfold noiseReload
  split
  · assumption
  · exact Nat.le_of_lt_succ (Config.wideNoiseReload d).isLt

/-- The range of R26. -/
theorem noiseReload_le_self (d : Nat) : noiseReload d ≤ d := by
  rcases Nat.lt_or_ge 1024 d with h | h
  · exact (noiseReload_le d).trans h.le
  · exact (noiseReload_of_le h).le

theorem noiseCount_cases (c : Config) (d : Nat) (n : NoiseChannel) :
    (n.counter ≤ 1 ∧ noiseCount c d n = { noiseShift c n with counter := noiseReload d }) ∨
    (1 < n.counter ∧ noiseCount c d n = { n with counter := n.counter - 1 }) := by
  unfold noiseCount
  split
  · exact .inl ⟨‹_›, rfl⟩
  · exact .inr ⟨by omega, rfl⟩

/-- The divisor of a rate of 0 to 2. -/
def noiseDivOf (c : Config) : Nat → Option Nat
  | 0 => some c.noiseDiv0
  | 1 => some c.noiseDiv1
  | 2 => some c.noiseDiv2
  | _ => none

/-- A noise tick counts at its rate's divisor, or, at rate 3, shifts exactly on tone 2's underflow. -/
theorem noiseTick_cases (c : Config) (u : Bool) (n : NoiseChannel) :
    (∃ d, noiseDivOf c (noiseRate n.control).toNat = some d ∧ noiseTick c u n = noiseCount c d n) ∨
    ((noiseRate n.control).toNat = 3 ∧ noiseTick c u n = if u then noiseShift c n else n) := by
  have h := (noiseRate n.control).isLt
  unfold noiseTick
  generalize (noiseRate n.control).toNat = r at h ⊢
  rcases r with _ | _ | _ | _ | r
  · exact .inl ⟨_, rfl, rfl⟩
  · exact .inl ⟨_, rfl, rfl⟩
  · exact .inl ⟨_, rfl, rfl⟩
  · exact .inr ⟨rfl, rfl⟩
  · omega

@[simp] theorem noiseTick_control (c : Config) (u : Bool) (n : NoiseChannel) :
    (noiseTick c u n).control = n.control := by
  rcases noiseTick_cases c u n with ⟨d, -, h⟩ | ⟨-, h⟩
  · rw [h]
    rcases noiseCount_cases c d n with ⟨-, h⟩ | ⟨-, h⟩ <;> simp [h]
  · rw [h]
    cases u <;> rfl

@[simp] theorem noiseTick_attenuation (c : Config) (u : Bool) (n : NoiseChannel) :
    (noiseTick c u n).attenuation = n.attenuation := by
  rcases noiseTick_cases c u n with ⟨d, -, h⟩ | ⟨-, h⟩
  · rw [h]
    rcases noiseCount_cases c d n with ⟨-, h⟩ | ⟨-, h⟩ <;> simp [h]
  · rw [h]
    cases u <;> rfl

theorem readyTick_cases (c : Config) (r : ReadyLine) :
    (c.hasReady = true ∧ r.cyclesToReady = 1 ∧ readyTick c r = ⟨true, 0⟩) ∨
    (c.hasReady = true ∧ 1 < r.cyclesToReady ∧ readyTick c r = ⟨r.ready, r.cyclesToReady - 1⟩) ∨
    ((c.hasReady = false ∨ r.cyclesToReady = 0) ∧ readyTick c r = r) := by
  unfold readyTick
  split
  · rename_i h
    by_cases h1 : r.cyclesToReady = 1
    · exact .inl ⟨h.1, h1, by simp [h1]⟩
    · exact .inr (.inl ⟨h.1, by omega, by simp; omega⟩)
  · rename_i h
    refine .inr (.inr ⟨?_, rfl⟩)
    cases hr : c.hasReady
    · exact .inl rfl
    · exact .inr (by simp [hr] at h; omega)

/-! The register view -/

/-- The eight registers, one equation each. -/
theorem Engine.reg_eqs (e : Engine) :
    e.reg 0 = e.tone0.period ∧ e.reg 1 = e.tone0.attenuation.setWidth 10 ∧
    e.reg 2 = e.tone1.period ∧ e.reg 3 = e.tone1.attenuation.setWidth 10 ∧
    e.reg 4 = e.tone2.period ∧ e.reg 5 = e.tone2.attenuation.setWidth 10 ∧
    e.reg 6 = e.noise.control.setWidth 10 ∧ e.reg 7 = e.noise.attenuation.setWidth 10 :=
  ⟨rfl, rfl, rfl, rfl, rfl, rfl, rfl, rfl⟩

/-- A register index is one of the eight. -/
theorem index_cases (i : BitVec 3) :
    i = 0 ∨ i = 1 ∨ i = 2 ∨ i = 3 ∨ i = 4 ∨ i = 5 ∨ i = 6 ∨ i = 7 := by
  revert i
  decide

/-- A tick changes no register. -/
@[simp] theorem Engine.tick_reg (e : Engine) (i : BitVec 3) : e.tick.reg i = e.reg i := by
  rcases index_cases i with rfl | rfl | rfl | rfl | rfl | rfl | rfl | rfl <;>
    simp [Engine.reg, Engine.tick]

/-! Many ticks -/

@[simp] theorem Engine.ticks_zero (e : Engine) : e.ticks 0 = e := rfl

theorem Engine.ticks_succ (e : Engine) (n : Nat) : e.ticks (n + 1) = (e.ticks n).tick := by
  induction n generalizing e with
  | zero => rfl
  | succ n ih => exact ih e.tick

theorem Engine.ticks_add (e : Engine) (m n : Nat) : e.ticks (m + n) = (e.ticks m).ticks n := by
  induction n with
  | zero => rfl
  | succ n ih => rw [← Nat.add_assoc, Engine.ticks_succ, Engine.ticks_succ, ih]

@[simp] theorem Engine.ticks_cfg (e : Engine) (n : Nat) : (e.ticks n).cfg = e.cfg := by
  induction n with
  | zero => rfl
  | succ n ih => rw [Engine.ticks_succ, Engine.tick_cfg, ih]

@[simp] theorem Engine.ticks_hostClockHz (e : Engine) (n : Nat) : (e.ticks n).hostClockHz = e.hostClockHz := by
  induction n with
  | zero => rfl
  | succ n ih => rw [Engine.ticks_succ, Engine.tick_hostClockHz, ih]

@[simp] theorem Engine.ticks_stereoMask (e : Engine) (n : Nat) : (e.ticks n).stereoMask = e.stereoMask := by
  induction n with
  | zero => rfl
  | succ n ih => rw [Engine.ticks_succ, Engine.tick_stereoMask, ih]

@[simp] theorem Engine.ticks_period (e : Engine) (n : Nat) (c : ToneId) :
    ((e.ticks n).tone c).period = (e.tone c).period := by
  induction n with
  | zero => rfl
  | succ n ih => rw [Engine.ticks_succ, Engine.tick_tone, toneTick_period, ih]

@[simp] theorem Engine.ticks_control (e : Engine) (n : Nat) : (e.ticks n).noise.control = e.noise.control := by
  induction n with
  | zero => rfl
  | succ n ih => rw [Engine.ticks_succ, Engine.tick_noise, noiseTick_control, ih]

@[simp] theorem Engine.ticks_reg (e : Engine) (n : Nat) (i : BitVec 3) : (e.ticks n).reg i = e.reg i := by
  induction n with
  | zero => rfl
  | succ n ih => rw [Engine.ticks_succ, Engine.tick_reg, ih]

end Sys2Proof.Machine
end

