-- ==== Sys2Proof/Laws/Noise.lean ====
section
/-! SUPPORT. The shift register bit by bit, and that a shift keeps it in its width (spec 42_noise.md R131, R133). -/

namespace Sys2Proof.Machine

theorem feedback_toNat_le_one (c : Config) (n : NoiseChannel) : (feedback c n).toNat ≤ 1 := by
  cases feedback c n <;> simp

/-- After a shift bit `H` is the feedback bit and every other bit is the old bit above it. -/
theorem noiseShift_testBit (c : Config) (n : NoiseChannel) (h : n.lfsr < 2 ^ c.width) (i : Nat) :
    (noiseShift c n).lfsr.testBit i = if i = c.highBit then feedback c n else n.lfsr.testBit (i + 1) := by
  simp only [noiseShift, Nat.testBit_or, Nat.testBit_shiftRight, Nat.testBit_shiftLeft]
  by_cases hi : i = c.highBit
  · subst hi
    have h1 : n.lfsr.testBit (1 + c.highBit) = false :=
      Nat.testBit_lt_two_pow (by simpa [Config.width, Nat.add_comm] using h)
    cases feedback c n <;> simp [h1]
  · rw [if_neg hi, Nat.add_comm 1 i]
    by_cases hge : i ≥ c.highBit
    · have hbit : (feedback c n).toNat.testBit (i - c.highBit) = false := by
        apply Nat.testBit_lt_two_pow
        have h1 := feedback_toNat_le_one c n
        have h2 : 2 ^ 1 ≤ 2 ^ (i - c.highBit) := Nat.pow_le_pow_right (by omega) (by omega)
        omega
      simp [hbit]
    · simp [hge]

/-- A shift stays within the W bits. -/
theorem noiseShift_lt (c : Config) (n : NoiseChannel) (h : n.lfsr < 2 ^ c.width) :
    (noiseShift c n).lfsr < 2 ^ c.width := by
  apply Nat.lt_pow_two_of_testBit
  intro i hi
  rw [noiseShift_testBit c n h, if_neg (by unfold Config.width at hi; omega)]
  exact Nat.testBit_lt_two_pow (lt_of_lt_of_le h (Nat.pow_le_pow_right (by omega) (by omega)))

@[simp] theorem noiseShift_iterate_control (c : Config) (n : NoiseChannel) (k : Nat) :
    ((noiseShift c)^[k] n).control = n.control := by
  induction k with
  | zero => rfl
  | succ k ih => rw [Function.iterate_succ_apply', noiseShift_control, ih]

@[simp] theorem noiseShift_iterate_counter (c : Config) (n : NoiseChannel) (k : Nat) :
    ((noiseShift c)^[k] n).counter = n.counter := by
  induction k with
  | zero => rfl
  | succ k ih => rw [Function.iterate_succ_apply', noiseShift_counter, ih]

theorem noiseShift_iterate_lt (c : Config) (n : NoiseChannel) (h : n.lfsr < 2 ^ c.width) (k : Nat) :
    ((noiseShift c)^[k] n).lfsr < 2 ^ c.width := by
  induction k with
  | zero => exact h
  | succ k ih =>
    rw [Function.iterate_succ_apply']
    exact noiseShift_lt c _ ih

end Sys2Proof.Machine
end

