-- ==== Sys2Proof/Laws/Operands.lean ====
section
/-! SUPPORT. The two fields of a period after the writes of spec R91 and R100, and that the two fields are the whole
period (R76). -/

namespace Sys2Proof.Machine

@[simp] theorem latchPeriod_low (policy : LatchFreqPolicy) (old : BitVec 10) (d : BitVec 4) :
    (latchPeriod policy old d).extractLsb' 0 4 = d := by
  ext i hi
  rcases i with _ | _ | _ | _ | i <;>
    first
    | omega
    | cases policy <;> simp [latchPeriod]

@[simp] theorem latchPeriod_preserve_high (old : BitVec 10) (d : BitVec 4) :
    (latchPeriod .preserve old d).extractLsb' 4 6 = old.extractLsb' 4 6 := by
  ext i hi
  rcases i with _ | _ | _ | _ | _ | _ | i <;>
    first
    | omega
    | simp [latchPeriod]

@[simp] theorem latchPeriod_zeroHigh_high (old : BitVec 10) (d : BitVec 4) :
    (latchPeriod .zeroHigh old d).extractLsb' 4 6 = 0 := by
  ext i hi
  rcases i with _ | _ | _ | _ | _ | _ | i <;>
    first
    | omega
    | simp [latchPeriod]

@[simp] theorem dataPeriod_low (old : BitVec 10) (h : BitVec 6) :
    (dataPeriod old h).extractLsb' 0 4 = old.extractLsb' 0 4 := by
  ext i hi
  rcases i with _ | _ | _ | _ | i <;>
    first
    | omega
    | simp [dataPeriod]

@[simp] theorem dataPeriod_high (old : BitVec 10) (h : BitVec 6) :
    (dataPeriod old h).extractLsb' 4 6 = h := by
  ext i hi
  rcases i with _ | _ | _ | _ | _ | _ | i <;>
    first
    | omega
    | simp [dataPeriod]

/-- The low 4 and the high 6 bits are the whole period. -/
theorem period_eq_of_fields {p q : BitVec 10} (low : p.extractLsb' 0 4 = q.extractLsb' 0 4)
    (high : p.extractLsb' 4 6 = q.extractLsb' 4 6) : p = q := by
  ext i hi
  by_cases h4 : i < 4
  · have := congrArg (·.getLsbD i) low
    simpa [h4, BitVec.getLsbD_eq_getElem hi] using this
  · obtain ⟨j, rfl⟩ : ∃ j, i = 4 + j := ⟨i - 4, by omega⟩
    have := congrArg (·.getLsbD j) high
    have hj : j < 6 := by omega
    simpa [hj, BitVec.getLsbD_eq_getElem hi] using this

end Sys2Proof.Machine
end

