-- ==== Sys2Proof/Laws/PerInstr.lean ====
section
/-! SUPPORT. Statements made instruction by instruction. Family `MatchesRow`: the port and byte of an instruction match
the row of the opcode table that bears its mnemonic (spec 30_encoding.md R80, R81). -/

namespace Sys2Proof.Laws.MatchesRow

/-- The instruction's byte matches the row of its own name. -/
def Statement (i : Instr) : Prop :=
  ∃ row ∈ opcodeTable, row.mnemonic = i.mnemonic ∧ row.matchesWrite (encode i).1 (encode i).2 = true

theorem latchT0F (d : BitVec 4) : Statement (.latchT0F d) :=
  ⟨⟨"LATCH.T0F", .main, 0xF0, 0x80⟩, by decide, rfl, by revert d; decide⟩

theorem latchT0A (d : BitVec 4) : Statement (.latchT0A d) :=
  ⟨⟨"LATCH.T0A", .main, 0xF0, 0x90⟩, by decide, rfl, by revert d; decide⟩

theorem latchT1F (d : BitVec 4) : Statement (.latchT1F d) :=
  ⟨⟨"LATCH.T1F", .main, 0xF0, 0xA0⟩, by decide, rfl, by revert d; decide⟩

theorem latchT1A (d : BitVec 4) : Statement (.latchT1A d) :=
  ⟨⟨"LATCH.T1A", .main, 0xF0, 0xB0⟩, by decide, rfl, by revert d; decide⟩

theorem latchT2F (d : BitVec 4) : Statement (.latchT2F d) :=
  ⟨⟨"LATCH.T2F", .main, 0xF0, 0xC0⟩, by decide, rfl, by revert d; decide⟩

theorem latchT2A (d : BitVec 4) : Statement (.latchT2A d) :=
  ⟨⟨"LATCH.T2A", .main, 0xF0, 0xD0⟩, by decide, rfl, by revert d; decide⟩

theorem latchNctl (d : BitVec 4) : Statement (.latchNctl d) :=
  ⟨⟨"LATCH.NCTL", .main, 0xF0, 0xE0⟩, by decide, rfl, by revert d; decide⟩

theorem latchNatt (d : BitVec 4) : Statement (.latchNatt d) :=
  ⟨⟨"LATCH.NATT", .main, 0xF0, 0xF0⟩, by decide, rfl, by revert d; decide⟩

theorem data (x : BitVec 1) (h : BitVec 6) : Statement (.data x h) :=
  ⟨⟨"DATA", .main, 0x80, 0x00⟩, by decide, rfl, by revert x h; decide⟩

theorem stereo (m : BitVec 8) : Statement (.stereo m) :=
  ⟨⟨"STEREO", .stereo, 0x00, 0x00⟩, by decide, rfl, by simp [OpRow.matchesWrite, encode]⟩

end Sys2Proof.Laws.MatchesRow
end

