-- ==== Sys2Proof/Laws/Step.lean ====
section
/-! SUPPORT. What a step can do to the engine, by the operation it carries out, and what each host operation does when it
is the next one. -/

namespace Sys2Proof.Machine

@[simp] theorem step_pushInputs (s : State) (op : HostOp) (ops : List HostOp) :
    step (s.pushInputs (op :: ops)) = runHostOp op (s.pushInputs ops) := rfl

@[simp] theorem pushInputs_nil (s : State) : s.pushInputs [] = s := rfl

theorem step_idle {s : State} (h : s.host.inputs = []) : step s = .next s := by
  simp [step, nextInput, h]

theorem step_cons {s : State} {op : HostOp} {rest : List HostOp} (h : s.host.inputs = op :: rest) :
    step s = runHostOp op { s with host := { s.host with inputs := rest } } := by
  simp [step, nextInput, h]

theorem nextOp_idle {s : State} (h : s.host.inputs = []) : s.nextOp = none := by
  simp [State.nextOp, h]

/-! Running the machine step by step -/

theorem run_zero (s : State) : Host.Core.run Sys2Proof.core 0 s = .next s := rfl

theorem run_of_next {s t : State} (h : step s = .next t) (k : Nat) :
    Host.Core.run Sys2Proof.core (k + 1) s = Host.Core.run Sys2Proof.core k t := by
  have h' : Sys2Proof.core.step s = .next t := h
  simp only [Host.Core.run, h']

theorem run_add {s t : State} {j : Nat} (h : Host.Core.run Sys2Proof.core j s = .next t) (k : Nat) :
    Host.Core.run Sys2Proof.core (j + k) s = Host.Core.run Sys2Proof.core k t := by
  induction j generalizing s with
  | zero =>
    cases h
    rw [Nat.zero_add]
  | succ j ih =>
    rw [Nat.add_right_comm]
    cases hs : step s with
    | next u => exact (run_of_next hs _).trans (ih ((run_of_next hs j).symm.trans h))
    | fault r =>
      have h' : Sys2Proof.core.step s = .fault r := hs
      simp only [Host.Core.run, h', reduceCtorEq] at h
    | refused r =>
      have h' : Sys2Proof.core.step s = .refused r := hs
      simp only [Host.Core.run, h', reduceCtorEq] at h

/-- No held write is due exactly when none has run out of ticks. -/
theorem takeDue_eq_none {ws : List DueWrite} : takeDue ws = none ↔ ∀ w ∈ ws, w.ticksLeft ≠ 0 := by
  induction ws with
  | nil => simp [takeDue]
  | cons w ws ih =>
    by_cases hw : w.ticksLeft = 0
    · simp [takeDue, hw]
    · cases hd : takeDue ws with
      | none => simpa [takeDue, hw, hd] using ih.mp hd
      | some v =>
        simp only [takeDue, hw, hd, if_false]
        simp only [hd, reduceCtorEq, false_iff] at ih
        simpa [hw] using ih

/-- A due write behind writes that are not due is the one taken, and they stay. -/
theorem takeDue_append {pre rest : List DueWrite} {p : Port} {b : Byte} (h : ∀ w ∈ pre, w.ticksLeft ≠ 0) :
    takeDue (pre ++ ⟨0, p, b⟩ :: rest) = some (⟨0, p, b⟩, pre ++ rest) := by
  induction pre with
  | nil => simp [takeDue]
  | cons w ws ih =>
    rw [List.forall_mem_cons] at h
    simp [takeDue, h.1, ih h.2]

/-- What one step does, by the operation it carries out: it issues nothing and holds; or it runs an instruction (a write
of the host, or a held one that is due before a tick); or it ticks; or it is one of the other operations. -/
theorem step_split (s : State) :
    (s.nextOp = none ∧ step s = .next s) ∨
    (∃ p b s', s.nextOp = some (.write p b) ∧ s'.engine = s.engine ∧ step s = exec (decode p b) s') ∨
    (∃ s', s.nextOp = some .tick ∧ s'.engine = s.engine ∧ step s = onEngine Engine.tick s') ∨
    (∃ op s', s.nextOp = some op ∧ s'.engine = s.engine ∧ step s = runHostOp op s' ∧
      op ≠ .tick ∧ ∀ p b, op ≠ .write p b) := by
  cases h : s.host.inputs with
  | nil => exact .inl ⟨nextOp_idle h, step_idle h⟩
  | cons op rest =>
    right
    rw [step_cons h]
    by_cases ht : op = .tick
    · subst ht
      cases hd : takeDue s.host.due with
      | none =>
        refine .inr (.inl ⟨{ s with host := { s.host with inputs := rest, due := ageDue s.host.due } },
          by simp [State.nextOp, h, hd], rfl, ?_⟩)
        simp [runHostOp, hostTick, hd]
      | some w =>
        refine .inl ⟨w.1.port, w.1.byte,
          { s with host := { s.host with inputs := rest, due := w.2 } }.pushInputs [.tick],
          by simp [State.nextOp, h, hd], rfl, ?_⟩
        simp [runHostOp, hostTick, hd, hostWrite]
    · have hn : s.nextOp = some op := by simp [State.nextOp, h, ht]
      by_cases hw : ∃ p b, op = .write p b
      · obtain ⟨p, b, rfl⟩ := hw
        exact .inl ⟨p, b, { s with host := { s.host with inputs := rest } }, hn, rfl, rfl⟩
      · exact .inr (.inr ⟨op, { s with host := { s.host with inputs := rest } }, hn, rfl, rfl, ht,
          fun p b he => hw ⟨p, b, he⟩⟩)

/-- What a step that goes through did to the engine. -/
theorem step_engine {s t : State} {e : Engine} (he : s.engine = some e) (h : step s = .next t) :
    (∃ p b, s.nextOp = some (.write p b) ∧ t.engine = some (e.after (decode p b)) ∧
      (p = .stereo → e.cfg.hasStereo = true)) ∨
    (s.nextOp = some .tick ∧ t.engine = some e.tick) ∨
    (s.nextOp = some .reset ∧ t.engine = some (Engine.initial e.cfg e.hostClockHz)) ∨
    (∃ a hz, s.nextOp = some (.construct a hz) ∧ checkConfig a hz = none ∧
      t.engine = some (Engine.initial a.config hz.toNat)) ∨
    (t.engine = some e ∧ (∀ p b, s.nextOp ≠ some (.write p b)) ∧ s.nextOp ≠ some .tick ∧
      s.nextOp ≠ some .reset ∧ ∀ c hz, s.nextOp ≠ some (.construct c hz)) := by
  rcases step_split s with ⟨hn, hs⟩ | ⟨p, b, s', hn, hs', hs⟩ | ⟨s', hn, hs', hs⟩ | ⟨op, s', hn, hs', hs, h1, h2⟩
  · rw [hs] at h
    cases h
    simp [he, hn]
  · left
    rw [hs] at h
    obtain ⟨e', he', rfl⟩ := exec_next h
    obtain rfl : e = e' := by simpa [hs', he] using he'
    refine ⟨p, b, hn, rfl, ?_⟩
    rintro rfl
    by_contra hst
    simp [decode, exec, execStereo, he', hst] at h
  · right; left
    rw [hs, onEngine_some (e := e) (by rw [hs', he])] at h
    cases h
    exact ⟨hn, rfl⟩
  · rw [← hs'] at he
    rw [hs] at h
    simp only [hn, Option.some.injEq]
    cases op with
    | construct c hz =>
      right; right; right; left
      refine ⟨c, hz, rfl, ?_⟩
      cases hc : checkConfig c hz <;> simp [runHostOp, doConstruct, hc, raiseConfigError] at h
      subst h
      exact ⟨rfl, rfl⟩
    | write p b => exact absurd rfl (h2 p b)
    | tick => exact absurd rfl h1
    | reset =>
      right; right; left
      change onEngine Engine.doReset { s' with host := { s'.host with sampleAcc := 0 } } = _ at h
      rw [onEngine_some (e := e) (by exact he)] at h
      cases h
      exact ⟨rfl, rfl⟩
    | isReady =>
      simp [runHostOp, hostIsReady, he] at h
      subst h
      simp [he]
    | mix r =>
      simp only [runHostOp, hostMix, he] at h
      cases hm : e.mixFor r <;> simp [hm] at h
      subst h
      simp [he]
    | generate n rate r =>
      simp only [runHostOp, hostGenerate, he] at h
      split at h
      · cases h
      · cases n <;> simp at h <;> subst h <;> simp [he]
    | writeAt n p b =>
      simp [runHostOp, hostWriteAt] at h
      subst h
      simp [he]

end Sys2Proof.Machine
end

