-- ==== Sys2Proof/Tests/Slice0.lean ====
section
/-! SUPPORT. The model's own tests: what the spec's examples and vectors (spec 95_test_vectors.md, named W, T, N, M, E as
there) say of one step, and for each statement with hypotheses a concrete state and operands that meet them. -/

namespace Sys2Proof.Tests

open Sys2Proof.Machine

/-- The reset engines of the spec's two test variants, and V1 under the other latch policy. -/
def v1 : Engine := Engine.initial Config.v1 4000000
def v2 : Engine := Engine.initial Config.v2 4000000
def v1ZeroHigh : Engine := Engine.initial { Config.v1 with latchFreqPolicy := .zeroHigh } 4000000

/-- A machine with this engine and an idle host; a machine without an engine. -/
def on (e : Engine) : State := ⟨some e, HostSide.idle⟩
def off : State := ⟨none, HostSide.idle⟩

/-- One thing about the engine, or about the host side, after a step that went through. -/
def after {α : Type} (f : Engine → α) : Host.Outcome State Fault Refusal → Option α
  | .next t => t.engine.map f
  | .fault _ => none
  | .refused _ => none

def hostAfter {α : Type} (f : HostSide → α) : Host.Outcome State Fault Refusal → Option α
  | .next t => some (f t.host)
  | .fault _ => none
  | .refused _ => none

/-- One step that carries out one operation on an engine. -/
def run (op : HostOp) (e : Engine) : Host.Outcome State Fault Refusal := step ((on e).pushInputs [op])
def write (b : Byte) (e : Engine) : Host.Outcome State Fault Refusal := run (.write .main b) e

/-- The error a `construct` of a configuration raises. -/
def errorOf (a : ConfigArgs) (hz : Int) : Option ConfigError :=
  match step (off.pushInputs [.construct a hz]) with
  | .next _ => none
  | .fault (.configError r) => some r
  | .refused _ => none

/-! Decoding: words written out from the encodings of spec 40_register_writes.md R92 to R101 -/

theorem test_decode_latchT0F : decode .main 0b10001010 = .latchT0F 0b1010 := by decide
theorem test_decode_latchT0A : decode .main 0b10010110 = .latchT0A 0b0110 := by decide
theorem test_decode_latchT1F : decode .main 0b10100011 = .latchT1F 0b0011 := by decide
theorem test_decode_latchT1A : decode .main 0b10111000 = .latchT1A 0b1000 := by decide
theorem test_decode_latchT2F : decode .main 0b11000111 = .latchT2F 0b0111 := by decide
theorem test_decode_latchT2A : decode .main 0b11011101 = .latchT2A 0b1101 := by decide
theorem test_decode_latchNctl : decode .main 0b11101011 = .latchNctl 0b1011 := by decide
theorem test_decode_latchNatt : decode .main 0b11110001 = .latchNatt 0b0001 := by decide
theorem test_decode_data : decode .main 0b01100110 = .data 0b1 0b100110 := by decide
theorem test_decode_stereo : decode .stereo 0b11010010 = .stereo 0b11010010 := by decide
theorem test_encode_latchT2F : encode (.latchT2F 0b0111) = (.main, 0b11000111) := by decide
theorem test_encode_data : encode (.data 0b1 0b100110) = (.main, 0b01100110) := by decide
theorem test_tableWord_main : decodeTableWord 8 0xE5 = some (.latchNctl 5) := by decide
theorem test_tableWord_stereo :
    decodeTableWord 16 0x1F0 = some (.stereo 0xF0) ∧ decodeTableWord 0 0 = some (.stereo 0) ∧
    decodeTableWord 16 0x2F0 = none := by decide

/-! Well-formedness: one ill-formed term for each check (R6, R7, R101) -/

theorem test_legal_variants : Config.v1.Legal ∧ Config.v2.Legal := by decide
theorem test_illegal_feedbackMask : ¬ Config.Legal { Config.v1 with feedbackMask := 0x6000 } := by decide
theorem test_illegal_feedbackMask_zero : ¬ Config.Legal { Config.v1 with feedbackMask := 0 } := by decide
theorem test_illegal_tap1 : ¬ Config.Legal { Config.v1 with tap1 := 15 } := by decide
theorem test_illegal_tap2 : ¬ Config.Legal { Config.v1 with tap2 := 15 } := by decide
theorem test_illegal_lfsrReset : ¬ Config.Legal { Config.v1 with lfsrReset := 0x8000 } := by decide
theorem test_illegal_clockDivider : ¬ Config.Legal { Config.v1 with clockDivider := 0 } := by decide
theorem test_illegal_noiseDiv0 : ¬ Config.Legal { Config.v1 with noiseDiv0 := 0 } := by decide
theorem test_illegal_noiseDiv1 : ¬ Config.Legal { Config.v1 with noiseDiv1 := 0 } := by decide
theorem test_illegal_noiseDiv2 : ¬ Config.Legal { Config.v1 with noiseDiv2 := 0 } := by decide
theorem test_illegal_silence :
    ¬ Config.Legal { Config.v1 with volumeTable := Config.defaultVolumeTable.set 15 1 } := by decide
theorem test_illegal_readyCycles : ¬ Config.Legal { Config.v1 with readyCycles := 0 } := by decide
theorem test_illFormed_stereo :
    Instr.wellFormed Config.v1 (.stereo 0) = false ∧ Instr.wellFormed Config.v2 (.stereo 0) = true := by decide

/-! Register writes (vectors W1 to W11, N8, and the examples of R92 to R101) -/

def w4 : Engine := (v1.setPeriod .t0 0x3F0).setLatched 0

theorem test_W1_data_after_reset :
    write 0x3F v1 = .next (on { v1 with readyLine := ⟨false, 2⟩ }) := rfl
theorem test_W5_latchT0F :
    after (fun e => (e.reg 0, e.lastLatched)) (write 0x85 w4) = some (0x3F5, some 0) := by decide
theorem test_W11_latchT0F_zeroHigh :
    after (fun e => e.reg 0) (write 0x85 (v1ZeroHigh.setPeriod .t0 0x3FF)) = some 0x005 := by decide
theorem test_W6_latchT0A :
    after (fun e => (e.reg 1, e.lastLatched)) (write 0x9F (v1.setAtt .t0 0)) = some (15, some 1) := by decide
theorem test_R94_latchT1F :
    after (fun e => (e.reg 2, e.reg 0, e.reg 4, e.lastLatched)) (write 0xAC v1) = some (0x00C, 0, 0, some 2) := by
  decide
theorem test_R95_latchT1A :
    after (fun e => (e.reg 3, e.reg 1, e.reg 5, e.lastLatched)) (write 0xB0 v1) = some (0, 15, 15, some 3) := by decide
theorem test_R96_latchT2F :
    after (fun e => (e.reg 4, e.reg 0, e.reg 2, e.lastLatched)) (write 0xC1 v1) = some (0x001, 0, 0, some 4) := by
  decide
theorem test_R97_latchT2A :
    after (fun e => (e.reg 5, e.reg 1, e.reg 3, e.lastLatched)) (write 0xD7 v1) = some (7, 15, 15, some 5) := by decide

/-- A V1 engine in the middle of a noise sequence. -/
def noisy : Engine := v1.setNoise ⟨0b101, 0, 7, 0x1234, false⟩

theorem test_N8_latchNctl :
    after (fun e => (e.reg 6, e.noise.lfsr, e.noise.output, e.noise.counter, e.lastLatched)) (write 0xE4 noisy) =
      some (0b100, 0x7FFF, true, 7, some 6) := by decide
theorem test_R78_latchNctl_ignored_bit : after (fun e => e.reg 6) (write 0xEC noisy) = some 0b100 := by decide
theorem test_R99_latchNatt :
    after (fun e => (e.reg 7, e.noise.lfsr, e.lastLatched)) (write 0xFF noisy) = some (15, 0x1234, some 7) := by decide
theorem test_W4_data :
    after (fun e => (e.reg 0, e.lastLatched)) (write 0x7F ((v1.setPeriod .t0 0x010).setLatched 0)) =
      some (0x3F0, some 0) := by decide
theorem test_W9_data_discarded :
    write 0x12 (noisy.setLatched 6) = .next (on { noisy.setLatched 6 with readyLine := ⟨false, 2⟩ }) := rfl
theorem test_R101_stereo : run (.write .stereo 0xF0) v2 = .next (on { v2 with stereoMask := 0xF0 }) := rfl
theorem test_R101_stereo_absent : run (.write .stereo 0xF0) v1 = .refused .stereoPortAbsent := rfl

/-! Ticks (vectors T3, T5, T6, T7, N1, N2, N7, N10) -/

theorem test_T5_underflow :
    after (fun e => e.tone0) (run .tick { v1 with tone0 := ⟨16, 15, 1, false⟩ }) = some ⟨16, 15, 16, true⟩ := by decide
theorem test_T6_count :
    after (fun e => e.tone0) (run .tick { v1 with tone0 := ⟨16, 15, 2, false⟩ }) = some ⟨16, 15, 1, false⟩ := by decide
theorem test_T7_first_tick :
    after (fun e => (e.tone0, e.tone1, e.tone2, e.noise)) (run .tick v1) =
      some (⟨0, 15, 1024, true⟩, ⟨0, 15, 1024, true⟩, ⟨0, 15, 1024, true⟩, ⟨0, 15, 16, 0x7FFF, true⟩) := by decide
theorem test_T3_treatAsOne : after (fun e => e.tone1) (run .tick v2) = some ⟨0, 15, 1, true⟩ := by decide
theorem test_N1_shift :
    after (fun e => (e.noise.lfsr, e.noise.output)) (run .tick (v1.setNoise ⟨0b100, 15, 1, 0x0001, true⟩)) =
      some (0x4000, false) := by decide
theorem test_N2_shift :
    after (fun e => (e.noise.lfsr, e.noise.output)) (run .tick (v2.setNoise ⟨0b100, 15, 1, 0x0007, true⟩)) =
      some (0x8003, true) := by decide
theorem test_N7_rate3 :
    after (fun e => (e.noise.lfsr, e.noise.counter)) (run .tick (v1.setNoise ⟨0b111, 15, 0, 0x7FFF, true⟩)) =
      some (0x3FFF, 0) := by decide
theorem test_N7_rate3_no_underflow :
    after (fun e => e.noise.lfsr)
      (run .tick { v1.setNoise ⟨0b111, 15, 0, 0x3FFF, true⟩ with tone2 := ⟨3, 15, 3, true⟩ }) = some 0x3FFF := by decide
theorem test_N10_reload :
    after (fun e => (e.noise.lfsr, e.noise.counter)) (run .tick (v1.setNoise ⟨0, 15, 1, 0x4000, false⟩)) =
      some (0x2000, 16) := by decide

/-! Mixer (vectors M1, M2, M3, M6) -/

/-- The state of vector M1. -/
def m1 : Engine :=
  { v1 with
    tone0 := ⟨0, 0, 0, true⟩
    tone1 := ⟨0, 2, 0, false⟩
    tone2 := ⟨0, 15, 0, true⟩
    noise := ⟨0, 5, 0, 0, false⟩ }

/-- The state of vector M2. -/
def m2 : Engine :=
  { v2 with
    tone0 := ⟨0, 0, 0, true⟩
    tone1 := ⟨0, 2, 0, false⟩
    tone2 := ⟨0, 4, 0, true⟩
    noise := ⟨0, 0, 0, 1, true⟩
    stereoMask := 0xF5 }

theorem test_M1_mono : hostAfter (·.answers) (run (.mix .mono) m1) = some [.sample (.mono 433)] := by decide
theorem test_M2_pair :
    hostAfter (·.answers) (run (.mix .native) m2) = some [.sample (.pair (-14475) (-11452))] := by decide
theorem test_M3_pair_masked :
    hostAfter (·.answers) (run (.mix .native) { m2 with stereoMask := 0 }) = some [.sample (.pair 0 0)] := by decide
theorem test_M6_pair_from_mono :
    hostAfter (·.answers) (run (.mix .stereo) m1) = some [.sample (.pair 433 433)] := by decide
theorem test_R168_mono_refused : run (.mix .mono) m2 = .refused .monoFromStereoVariant := rfl

/-! Ready line, construction and generation (vectors E1 to E10) -/

theorem test_E1_ready : hostAfter (·.answers) (run .isReady v1) = some [.ready true] := by decide
theorem test_E2_busy : after (·.readyLine) (write 0x9F v1) = some ⟨false, 2⟩ := by decide
theorem test_E3_tick : after (·.readyLine) (run .tick { v1 with readyLine := ⟨false, 2⟩ }) = some ⟨false, 1⟩ := by decide
theorem test_E4_restart :
    after (·.readyLine) (write 0x3F { v1 with readyLine := ⟨false, 1⟩ }) = some ⟨false, 2⟩ := by decide
theorem test_E5_ready_again :
    after (·.readyLine) (run .tick { v1 with readyLine := ⟨false, 1⟩ }) = some ⟨true, 0⟩ := by decide
theorem test_E6_generate :
    hostAfter (fun h => (h.inputs, h.sampleAcc)) (run (.generate 1 44100 .native) v1) =
      some ([.tick, .tick, .tick, .tick, .tick, .mix .native, .generate 0 44100 .native], 472000) := by decide
theorem test_E7_mask : errorOf { Config.v1.args with feedbackMask := 0x6000 } 1 = some .feedbackMaskNotPowerOfTwo := by decide
theorem test_E8_tap : errorOf { Config.v1.args with tap2 := 15 } 1 = some .tapOutOfRange := by decide
theorem test_E9_silence :
    errorOf { Config.v1.args with volumeTable := Config.defaultVolumeTable.set 15 1 } 1 = some .silenceEntryNotZero := by
  decide
theorem test_E10_equal_taps : errorOf { Config.v1.args with tap2 := 0 } 1 = none := by decide
theorem test_R196_other_errors :
    errorOf { Config.v1.args with lfsrReset := 0x8000 } 1 = some .resetValueOutOfRange ∧
    errorOf { Config.v1.args with clockDivider := 0 } 1 = some .badClockDivider ∧
    errorOf { Config.v1.args with noiseDiv1 := 0 } 1 = some .badNoiseDivider ∧
    errorOf { Config.v1.args with readyCycles := 0 } 1 = some .badReadyCycles ∧
    errorOf Config.v1.args 0 = some .badHostClock := by decide
/-- The lower bounds of R196, one below each: -1 for the taps and the reset value, 0 and negatives for the rest. -/
theorem test_R196_negative_arguments :
    errorOf { Config.v1.args with feedbackMask := -1 } 1 = some .feedbackMaskNotPowerOfTwo ∧
    errorOf { Config.v1.args with tap1 := -1 } 1 = some .tapOutOfRange ∧
    errorOf { Config.v1.args with tap2 := -1 } 1 = some .tapOutOfRange ∧
    errorOf { Config.v1.args with lfsrReset := -1 } 1 = some .resetValueOutOfRange ∧
    errorOf { Config.v1.args with clockDivider := -1 } 1 = some .badClockDivider ∧
    errorOf { Config.v1.args with noiseDiv2 := -1 } 1 = some .badNoiseDivider ∧
    errorOf { Config.v1.args with readyCycles := -1 } 1 = some .badReadyCycles ∧
    errorOf Config.v1.args (-1) = some .badHostClock := by decide
theorem test_illegal_negative_tap : ¬ ConfigArgs.Legal { Config.v1.args with tap1 := -1 } := by decide
theorem test_reset : run .reset noisy = .next (on v1) := rfl
theorem test_fetchWord :
    after (fun e => e.reg 6) (step (State.reset.withFetchWord 8 0xE5)) = some 0b101 ∧
    after (fun e => e.stereoMask) (step (State.reset.withFetchWord 16 0x184)) = some 0x84 := by decide
theorem test_due_write_first :
    after (fun e => (e.reg 0, e.tone0.counter))
      (step { on v1 with host := { HostSide.idle with inputs := [.tick], due := [⟨0, .main, 0x83⟩] } }) =
      some (3, 0) := by decide

theorem test_due_write_behind_another :
    after (fun e => (e.reg 0, e.reg 1))
      (step { on v1 with host := { HostSide.idle with inputs := [.tick], due := [⟨1, .main, 0x90⟩, ⟨0, .main, 0x83⟩] } }) =
      some (3, 15) := by decide

/-! Witnesses: for each statement with hypotheses, states and operands that meet them, each clause at its boundary. The
statement is named by the theorem. -/

/-- Tones at the end of a count, in the middle, and just reset; every period class. -/
def counting : Engine :=
  { v1 with
    tone0 := ⟨16, 0, 1, false⟩
    tone1 := ⟨0, 15, 2, true⟩
    tone2 := ⟨3, 15, 3, false⟩ }

/-- V1 with the noise control `control` and the noise counter `counter`. -/
def noiseAt (control : BitVec 3) (counter : Nat) : Engine := v1.setNoise ⟨control, 0, counter, 0x7FFF, true⟩

theorem witness_OneTableRowPerByte :
    (0x00 : Byte).toNat ≤ 0x7F ∧ (0x7F : Byte).toNat ≤ 0x7F ∧ ¬ (0x80 : Byte).toNat ≤ 0x7F := by decide

theorem witness_AccessIsOneByte : 2 ≤ [(0 : Byte), 0].length := by decide

theorem witness_IgnoredBitsDoNothing :
    State.reset.engine = some v2 ∧ v2.cfg.hasStereo = true ∧ ∃ t, exec (.stereo 0xF0) State.reset = .next t :=
  ⟨rfl, rfl, _, rfl⟩

theorem witness_StepRunsDecodedWrite :
    (on v1 |>.pushInputs [.write .main 0x8F]).host.inputs =
      .write (encode (.latchT0F 15)).1 (encode (.latchT0F 15)).2 :: [] := by decide

theorem witness_FrequencyLatchSetsLowBits :
    (on counting).engine = some counting ∧ counting.cfg.latchFreqPolicy = .preserve ∧
    v1ZeroHigh.cfg.latchFreqPolicy = .zeroHigh ∧ 1 ≤ (counting.tone .t0).counter ∧ counting.cfg.hasReady = true ∧
    v2.cfg.hasReady = false := by decide

theorem witness_AttenuationLatchStoresCode :
    (on counting).engine = some counting ∧ counting.cfg.volumeTable[15] = 0 := by decide

theorem witness_NoiseControlLatchReseeds : (on noisy).engine = some noisy ∧ noisy.noise.lfsr ≠ noisy.cfg.lfsrReset := by
  decide

/-- Both clauses: the latch at its first and last frequency register; at none and at a register of another class. -/
theorem witness_DataByteWritesHighBits :
    (on (v1.setLatched 0)).engine = some (v1.setLatched 0) ∧ (v1.setLatched 0).lastLatched = some 0 ∧
    (v1.setLatched 4).lastLatched = some 4 ∧ v1.lastLatched = none ∧
    (∀ r, (v1.setLatched 7).lastLatched = some r → ¬ (r = 0 ∨ r = 2 ∨ r = 4)) := by
  refine ⟨rfl, rfl, rfl, rfl, ?_⟩
  intro r h
  cases h
  decide

theorem witness_StereoByteWritesMask :
    (on v2).engine = some v2 ∧ v2.cfg.hasStereo = true ∧ (on v1).engine = some v1 ∧ v1.cfg.hasStereo = false := by decide

theorem witness_MainWriteLatchesIndex :
    (on v1).engine = some v1 ∧ (0x80 : Byte).getLsbD 7 = true ∧ (0x7F : Byte).getLsbD 7 = false := by decide

theorem witness_WritesLeaveChannelStateAlone :
    (on counting).engine = some counting ∧ (∃ t, exec (.latchNctl 0) (on counting) = .next t) ∧
    (∃ t, exec (.latchT0F 0) (on counting) = .next t) ∧ (∀ d, Instr.latchT0F 0 ≠ .latchNctl d) :=
  ⟨rfl, ⟨_, rfl⟩, ⟨_, rfl⟩, fun _ h => by cases h⟩

theorem witness_PeriodTakesTwoWrites :
    (on counting).engine = some counting ∧ (counting.tone .t0).counter ≤ 1 ∧ (1023 : BitVec 10) ≠ 0 := by decide

theorem witness_ExecNeedsEngine : off.engine = none := rfl

/-- Every clause: an underflow with a period and with period 0 under both policies, and a count that goes on. -/
theorem witness_ToneTickCountsOrReloads :
    (on counting).engine = some counting ∧ (on counting).host.due = [] ∧
    ((counting.tone .t0).counter - 1 : Int) ≤ 0 ∧ (counting.tone .t0).period ≠ 0 ∧
    ¬ ((counting.tone .t1).counter - 1 : Int) ≤ 0 ∧
    (v1.tone .t0).period = 0 ∧ v1.cfg.zeroPeriodPolicy = .treatAsMaximum ∧ ((v1.tone .t0).counter - 1 : Int) ≤ 0 ∧
    (v2.tone .t0).period = 0 ∧ v2.cfg.zeroPeriodPolicy = .treatAsOne ∧ ((v2.tone .t0).counter - 1 : Int) ≤ 0 := by decide

/-- The hypothesis with a period, and with period 0 under both policies. -/
theorem witness_ToneFrequencyLaw :
    (counting.tone .t2).counter = counting.effPeriod .t2 ∧ (counting.tone .t2).period ≠ 0 ∧
    1 ≤ counting.cfg.clockDivider ∧ (v1.tick.tone .t0).counter = v1.tick.effPeriod .t0 ∧
    (v2.tick.tone .t0).counter = v2.tick.effPeriod .t0 := by decide

theorem witness_PeriodWriteWaitsForUnderflow :
    (on counting).engine = some counting ∧
    (∃ t e', exec (.latchT2F 0) (on counting) = .next t ∧ t.engine = some e') ∧ 1 ≤ (counting.tone .t2).counter :=
  ⟨rfl, ⟨_, _, rfl, rfl⟩, by decide⟩

theorem witness_ToneCounterRange :
    (v1.tone .t0).counter ≤ 1024 ∧ (v1.tick.tone .t0).counter = 1024 := by decide

theorem witness_ToneChannelsAreIndependent :
    noisy.cfg = v1.cfg ∧ (noisy.tone .t0).period = (v1.tone .t0).period ∧
    (noisy.tone .t0).counter = (v1.tone .t0).counter ∧ (noisy.tone .t0).output = (v1.tone .t0).output ∧ noisy ≠ v1 := by
  decide

/-- A tick, a reset and a construct that change an output. -/
theorem witness_ToneOutputChangesOnUnderflow :
    (∃ t e', run .tick v1 = .next t ∧ t.engine = some e' ∧ (e'.tone .t0).output ≠ (v1.tone .t0).output) ∧
    (∃ t e', run .reset counting = .next t ∧ t.engine = some e' ∧ (e'.tone .t1).output ≠ (counting.tone .t1).output) ∧
    (∃ t e', run (.construct Config.v1.args 1) counting = .next t ∧ t.engine = some e' ∧
      (e'.tone .t1).output ≠ (counting.tone .t1).output) :=
  ⟨⟨_, _, rfl, rfl, by decide⟩, ⟨_, _, rfl, rfl, by decide⟩, ⟨_, _, rfl, rfl, by decide⟩⟩

theorem witness_NoiseShiftMovesBits : v1.noise.lfsr < 2 ^ v1.cfg.width ∧ (0 : Nat) < 2 ^ v1.cfg.width := by decide

/-- Each rate at both sides of its underflow. -/
theorem witness_NoiseTickByRate :
    (on (noiseAt 0 0)).engine = some (noiseAt 0 0) ∧ (on (noiseAt 0 0)).host.due = [] ∧
    (0, 16) ∈ [(0, v1.cfg.noiseDiv0), (1, v1.cfg.noiseDiv1), (2, v1.cfg.noiseDiv2)] ∧
    (1, 32) ∈ [(0, v1.cfg.noiseDiv0), (1, v1.cfg.noiseDiv1), (2, v1.cfg.noiseDiv2)] ∧
    (2, 64) ∈ [(0, v1.cfg.noiseDiv0), (1, v1.cfg.noiseDiv1), (2, v1.cfg.noiseDiv2)] ∧
    ((noiseAt 4 1).noise.control.extractLsb' 0 2).toNat = 0 ∧ ((noiseAt 4 1).noise.counter : Int) - 1 ≤ 0 ∧
    ((noiseAt 1 2).noise.control.extractLsb' 0 2).toNat = 1 ∧ ¬ ((noiseAt 1 2).noise.counter : Int) - 1 ≤ 0 ∧
    ((noiseAt 6 2).noise.control.extractLsb' 0 2).toNat = 2 ∧
    ((noiseAt 7 0).noise.control.extractLsb' 0 2).toNat = 3 ∧ ((noiseAt 7 0).tone .t2).counter ≤ 1 ∧
    ¬ (counting.tone .t2).counter ≤ 1 := by decide

theorem witness_NoiseShiftsEveryDivisor :
    (2, 64) ∈ [(0, v1.cfg.noiseDiv0), (1, v1.cfg.noiseDiv1), (2, v1.cfg.noiseDiv2)] ∧
    (noiseRate (noiseAt 2 64).noise.control).toNat = 2 ∧ 1 ≤ 64 ∧ 64 ≤ 1024 ∧ (noiseAt 2 64).noise.counter = 64 := by
  decide

/-- A V1 whose rate 0 has a divisor that the counter cannot hold, just reloaded. -/
def wideDivisor : Engine :=
  { noiseAt 0 (noiseReload 1025) with cfg := { Config.v1 with noiseDiv0 := 1025 } }

theorem witness_NoiseShiftsEveryDivisor_wide :
    (0, 1025) ∈ [(0, wideDivisor.cfg.noiseDiv0), (1, wideDivisor.cfg.noiseDiv1), (2, wideDivisor.cfg.noiseDiv2)] ∧
    (noiseRate wideDivisor.noise.control).toNat = 0 ∧ 1024 < 1025 ∧ wideDivisor.noise.counter = noiseReload 1025 ∧
    wideDivisor.cfg.Legal :=
  ⟨by decide, rfl, by decide, rfl, by decide⟩

/-- At a reload of tone channel 2, and on both sides of its underflow away from one. -/
theorem witness_RateThreeFollowsToneTwo :
    (noiseRate (counting.setNoise ⟨0b111, 0, 0, 0x7FFF, true⟩).noise.control).toNat = 3 ∧
    ((counting.setNoise ⟨0b111, 0, 0, 0x7FFF, true⟩).tone .t2).counter =
      (counting.setNoise ⟨0b111, 0, 0, 0x7FFF, true⟩).effPeriod .t2 ∧
    ¬ (((counting.setNoise ⟨0b111, 0, 0, 0x7FFF, true⟩).ticks 1).tone .t2).counter ≤ 1 ∧
    (((counting.setNoise ⟨0b111, 0, 0, 0x7FFF, true⟩).ticks 2).tone .t2).counter ≤ 1 := by decide

theorem witness_NoiseOutputChangesByShiftOrReseed :
    (∃ t e', run .tick (noiseAt 4 1) = .next t ∧ t.engine = some e' ∧ ¬ (noiseAt 4 1).SameLfsr e') ∧
    (∃ t e', write 0xE0 noisy = .next t ∧ t.engine = some e' ∧ ¬ noisy.SameLfsr e') ∧
    (∃ t e', run .reset noisy = .next t ∧ t.engine = some e' ∧ ¬ noisy.SameLfsr e') ∧
    (∃ t e', run (.construct Config.v1.args 1) noisy = .next t ∧ t.engine = some e' ∧ ¬ noisy.SameLfsr e') :=
  ⟨⟨_, _, rfl, rfl, fun h => absurd h.1 (by decide)⟩, ⟨_, _, rfl, rfl, fun h => absurd h.1 (by decide)⟩,
   ⟨_, _, rfl, rfl, fun h => absurd h.1 (by decide)⟩, ⟨_, _, rfl, rfl, fun h => absurd h.1 (by decide)⟩⟩

/-- A legal V1 whose shift register resets to 0 (vector N9). -/
def zeroSeed : Engine := Engine.initial { Config.v1 with lfsrReset := 0 } 4000000

theorem witness_ZeroRegisterStaysZero :
    zeroSeed.noise.lfsr = 0 ∧ zeroSeed.noise.output = false ∧ zeroSeed.cfg.lfsrReset = 0 ∧
    ((on zeroSeed).pushInputs [.tick]).engine = some zeroSeed ∧ (∃ t, run .tick zeroSeed = .next t) ∧
    (∀ c hz, ((on zeroSeed).pushInputs [.tick]).nextOp ≠ some (.construct c hz)) :=
  ⟨rfl, rfl, rfl, rfl, ⟨_, rfl⟩, fun _ _ h => by cases h⟩

theorem witness_PeriodicTapZeroRotates :
    v1.cfg.tap1 = 0 ∧ noiseWhite v1.noise.control = false ∧ v1.noise.lfsr < 2 ^ v1.cfg.width ∧
    v1.noise.lfsr = 2 ^ v1.cfg.width - 1 := by decide

theorem witness_WhiteEqualTapsDrain :
    ({ Config.v1 with tap2 := 0 } : Config).tap1 = ({ Config.v1 with tap2 := 0 } : Config).tap2 ∧
    noiseWhite (noiseAt 4 1).noise.control = true ∧ (noiseAt 4 1).noise.lfsr < 2 ^ Config.v1.width ∧
    Config.v1.width ≤ 15 := by decide

theorem witness_SilentChannelContributesNothing :
    v1.cfg.volumeTable[15] = 0 ∧ v1.att .tone0 = 15 ∧ v1.att .noise = 15 ∧
    ({ v1 with tone0 := ⟨0, 15, 0, true⟩ } : Engine).cfg = v1.cfg ∧
    (∀ ch, ({ v1 with tone0 := ⟨0, 15, 0, true⟩ } : Engine).att ch = v1.att ch) ∧
    (∀ ch, ch ≠ .tone0 → ({ v1 with tone0 := ⟨0, 15, 0, true⟩ } : Engine).out ch = v1.out ch) :=
  ⟨by decide, by decide, by decide, rfl, fun ch => by cases ch <;> rfl,
   fun ch h => by cases ch <;> first | exact absurd rfl h | rfl⟩

theorem witness_MixAnswersRequest :
    (on m1).engine = some m1 ∧ m1.cfg.hasStereo = false ∧ (on m2).engine = some m2 ∧ m2.cfg.hasStereo = true := by decide

theorem witness_MixReadsOnlyItsInputs :
    v1.SameToMixer ({ v1 with tone0 := ⟨7, 15, 3, false⟩ } : Engine) ∧
    v1 ≠ ({ v1 with tone0 := ⟨7, 15, 3, false⟩ } : Engine) :=
  ⟨⟨rfl, fun ch => by cases ch <;> rfl, fun ch => by cases ch <;> rfl, rfl⟩, by decide⟩

theorem witness_MixIsBounded : ∀ a : BitVec 4, |volume Config.v1 a| ≤ 8191 := by decide

/-- A write on each port, and every clause of the countdown: above 1, at 1, at 0, and without a ready line. -/
theorem witness_BusyForReadyCycles :
    (on v1).engine = some v1 ∧ v1.cfg.hasReady = true ∧ 1 ≤ v1.cfg.readyCycles ∧
    0 < ({ v1 with readyLine := ⟨false, 1⟩ } : Engine).readyLine.cyclesToReady ∧
    1 < ({ v1 with readyLine := ⟨false, 2⟩ } : Engine).readyLine.cyclesToReady ∧
    v1.readyLine.cyclesToReady = 0 ∧ v2.cfg.hasReady = false ∧ (∃ t, exec (.stereo 0) (on v2) = .next t) :=
  ⟨rfl, rfl, by decide, by decide, by decide, rfl, rfl, _, rfl⟩

theorem witness_ReadyLineGatesNothing :
    (on v1).engine = some v1 ∧ v1.SameButReady ({ v1 with readyLine := ⟨false, 2⟩ } : Engine) ∧
    v1 ≠ ({ v1 with readyLine := ⟨false, 2⟩ } : Engine) ∧ ∃ t, exec (.data 0 0) (on v1) = .next t :=
  ⟨rfl, rfl, by decide, _, rfl⟩

theorem witness_IsReadyAnswers :
    (on v1).engine = some v1 ∧ v1.cfg.hasReady = true ∧ (on v2).engine = some v2 ∧ v2.cfg.hasReady = false := by decide

theorem witness_ResetSetsEveryField :
    (on noisy).engine = some noisy ∧ noisy ≠ v1 ∧ Config.v1.args.Legal ∧ (1 : Int) ≤ 1 := by decide

/-- Every attenuation at 15, and a write of that code to one of them. -/
theorem witness_SilentAfterReset_writes :
    ((on v1).pushInputs [.write .main 0x9F]).engine = some v1 ∧ (∀ ch, v1.att ch = 15) ∧ (∃ t, write 0x9F v1 = .next t) ∧
    (∀ b : Byte, ((on v1).pushInputs [.write .main 0x9F]).nextOp = some (.write .main b) →
      b.extractLsb' 0 4 = 15) :=
  ⟨rfl, fun ch => by cases ch <;> rfl, ⟨_, rfl⟩, fun b h => by cases h; decide⟩

theorem witness_SilentAfterReset :
    v1.AtReset ∧ v1.cfg.volumeTable[15] = 0 ∧ v1.cfg.hasStereo = false ∧ v2.AtReset ∧ v2.cfg.volumeTable[15] = 0 ∧
    v2.cfg.hasStereo = true :=
  ⟨⟨by decide, by decide, rfl, rfl, fun c => by cases c <;> rfl, fun c => by cases c <;> rfl, rfl, rfl, rfl, rfl, rfl, rfl⟩,
   by decide, rfl,
   ⟨by decide, by decide, rfl, rfl, fun c => by cases c <;> rfl, fun c => by cases c <;> rfl, rfl, rfl, rfl, rfl, rfl, rfl⟩,
   by decide, rfl⟩

/-- The premises of every check in turn, at the bounds (the arguments of `test_R196_other_errors`,
`test_R196_negative_arguments` and E7 to E9 fail each). -/
theorem witness_ConstructChecksInOrder :
    off.engine = none ∧ Config.v1.args.feedbackMask = 2 ^ 14 ∧ (¬ ∃ h : Nat, (0x6000 : Int) = 2 ^ h) ∧
    0 ≤ Config.v1.args.tap1 ∧ Config.v1.args.tap1 < 15 ∧ 0 ≤ Config.v1.args.tap2 ∧ Config.v1.args.tap2 < 15 ∧
    0 ≤ Config.v1.args.lfsrReset ∧ Config.v1.args.lfsrReset < 2 ^ 15 ∧ ¬ (0x8000 : Int) < 2 ^ 15 ∧
    1 ≤ Config.v1.args.clockDivider ∧ 1 ≤ Config.v1.args.noiseDiv0 ∧ 1 ≤ Config.v1.args.noiseDiv1 ∧
    1 ≤ Config.v1.args.noiseDiv2 ∧ Config.v1.args.volumeTable[15] = 0 ∧ Config.v1.args.hasReady = true ∧
    1 ≤ Config.v1.args.readyCycles ∧ Config.v2.args.hasReady = false := by
  refine ⟨rfl, by decide, ?_, by decide⟩
  rintro ⟨h, hh⟩
  have hn : 0x6000 = 2 ^ h := by exact_mod_cast hh
  have h15 : h < 15 := (Nat.pow_lt_pow_iff_right (by decide : 1 < 2)).mp (by omega)
  interval_cases h <;> omega

theorem witness_ConstructAcceptsLegalOnly :
    (∃ t, run (.construct Config.v1.args 1) v2 = .next t) ∧ (∃ t, step (off.pushInputs [.construct Config.v1.args 1]) = .next t) :=
  ⟨⟨_, rfl⟩, ⟨_, rfl⟩⟩

theorem witness_OperationsNeedEngine :
    (off.pushInputs [.tick]).engine = none ∧ (off.pushInputs [.tick]).host.inputs = [.tick] ∧
    HostOp.tick.needsEngine = true ∧
    (∃ t, step (off.pushInputs [.construct Config.v1.args 1]) = .next t ∧ t.engine.isSome = true) :=
  ⟨rfl, rfl, rfl, _, rfl, rfl⟩

/-- Every kind of operation the variant has, and a tick at which a held write is due. -/
theorem witness_RunningEngineNeverStops :
    (∀ op ∈ [HostOp.write .main 0, .write .stereo 0, .tick, .reset, .isReady, .mix .native, .mix .stereo,
        .generate 1 1 .native, .generate 0 1 .mono, .writeAt 0 .main 0],
      ((on v2).pushInputs [op]).engine = some v2 ∧ ((on v2).pushInputs [op]).nextOp = some op ∧
      op.hasMeaning v2.cfg = true) ∧
    ((on v1).pushInputs [.mix .mono]).nextOp = some (.mix .mono) ∧ (HostOp.mix .mono).hasMeaning v1.cfg = true ∧
    ({ on v1 with host := { HostSide.idle with inputs := [.tick], due := [⟨0, .main, 0x83⟩] } } : State).nextOp =
      some (.write .main 0x83) := by decide

/-- The fault and each of the refusals. -/
theorem witness_StopsHaveTheirGround :
    (∃ r, run (.construct Config.v1.args 0) v1 = .fault r) ∧ (∃ r, step (off.pushInputs [.tick]) = .refused r) ∧
    (∃ r, run (.write .stereo 0) v1 = .refused r) ∧ (∃ r, run (.mix .mono) v2 = .refused r) ∧
    (∃ r, run (.generate 1 0 .native) v1 = .refused r) :=
  ⟨⟨_, rfl⟩, ⟨_, rfl⟩, ⟨_, rfl⟩, ⟨_, rfl⟩, ⟨_, rfl⟩⟩

theorem witness_ConfigurationIsFixed :
    ((on noisy).pushInputs [.reset]).engine = some noisy ∧ (∃ t, run .reset noisy = .next t) ∧
    (∀ c hz, ((on noisy).pushInputs [.reset]).nextOp ≠ some (.construct c hz)) :=
  ⟨rfl, ⟨_, rfl⟩, fun _ _ h => by cases h⟩

/-- Steps that change a register, the latch pointer, a counter and the mask. -/
theorem witness_FieldsChangeByTheirWriters :
    (∃ t e', write 0x85 v1 = .next t ∧ t.engine = some e' ∧ e'.reg 0 ≠ v1.reg 0 ∧ e'.lastLatched ≠ v1.lastLatched) ∧
    (∃ t e', run .tick v1 = .next t ∧ t.engine = some e' ∧ e'.noise.counter ≠ v1.noise.counter) ∧
    (∃ t e', run (.write .stereo 0) v2 = .next t ∧ t.engine = some e' ∧ e'.stereoMask ≠ v2.stereoMask) ∧
    ((on v1).pushInputs [.write .main 0x85]).nextOp ≠ some .reset :=
  ⟨⟨_, _, rfl, rfl, by decide, by decide⟩, ⟨_, _, rfl, rfl, by decide⟩, ⟨_, _, rfl, rfl, by decide⟩, by decide⟩

theorem witness_IdleMachineHolds : (on noisy).host.inputs = [] := rfl

theorem witness_InvariantHoldsAtReset : Config.v1.Legal ∧ (1 : Nat) ≤ 1 := by decide

/-- An engine in use, on a V1 machine, meets the invariant. -/
theorem counting_inv : counting.Inv :=
  ⟨by decide, by decide, fun c => by cases c <;> decide, by decide, by decide, by decide, by decide, by decide, by decide,
   by decide, by decide⟩

theorem witness_StepKeepsInvariant :
    ((on counting).pushInputs [.tick]).Inv ∧ ∃ t, step ((on counting).pushInputs [.tick]) = .next t :=
  ⟨fun e h => by cases h; exact counting_inv, _, rfl⟩

theorem witness_RestoreOfSave : counting.Inv := counting_inv

theorem witness_GenerateHasNoDrift :
    (on v1).engine = some v1 ∧ (on v1).host.due = [] ∧ (on v1).host.sampleAcc = 0 ∧ 1 ≤ 44100 ∧ 1 ≤ v1.cfg.clockDivider ∧
    v1.cfg.hasStereo = false ∧ MixRequest.native ≠ .mono := by decide

/-- A held write that is due, alone and behind one that is not, and one that is not due. -/
theorem witness_DueWriteComesBeforeTick :
    ({ on v1 with host := { HostSide.idle with due := [⟨0, .main, 0x83⟩] } } : State).host.due =
      [] ++ ⟨0, .main, 0x83⟩ :: [] ∧
    ({ on v1 with host := { HostSide.idle with due := [⟨1, .main, 0x9F⟩, ⟨0, .main, 0x83⟩] } } : State).host.due =
      [⟨1, .main, 0x9F⟩] ++ ⟨0, .main, 0x83⟩ :: [] ∧
    (∀ w ∈ [(⟨1, .main, 0x9F⟩ : DueWrite)], w.ticksLeft ≠ 0) := by decide

theorem witness_CountersHoldElevenBits :
    ((on counting).pushInputs [.tick]).engine = some counting ∧
    (∀ c, (counting.tone c).counter ≤ 1024) ∧ counting.noise.counter ≤ 1024 ∧ (∃ t, run .tick counting = .next t) ∧
    (∃ t, step (off.pushInputs [.construct Config.v1.args 1]) = .next t) :=
  ⟨rfl, fun c => by cases c <;> decide, by decide, ⟨_, rfl⟩, ⟨_, rfl⟩⟩

end Sys2Proof.Tests
end

section
/-! PROOFS. What a step does to the machine's engine, as a rule for invariants: a predicate that every operation on
an engine keeps and every engine just built meets holds after every step. -/

namespace Sys2Proof.Machine

/-- Without an engine a step that goes through leaves none, or carries out a `construct` that was accepted (R197). -/
theorem step_engine_none {s t : State} (he : s.engine = none) (h : step s = .next t) :
    t.engine = none ∨
      ∃ a hz, s.nextOp = some (.construct a hz) ∧ checkConfig a hz = none ∧
        t.engine = some (Engine.initial a.config hz.toNat) := by
  rcases step_split s with ⟨-, hs⟩ | ⟨p, b, s', -, hs', hs⟩ | ⟨s', -, hs', hs⟩ | ⟨op, s', hn, hs', hs, h1, h2⟩ <;>
    rw [hs] at h
  · cases h
    exact .inl he
  · obtain ⟨e, he', -⟩ := exec_next h
    rw [hs', he] at he'
    cases he'
  · rw [onEngine_none (hs'.trans he)] at h
    cases h
  · rw [he] at hs'
    cases op with
    | construct a hz =>
      cases hc : checkConfig a hz with
      | some r => simp [runHostOp, doConstruct, hc, raiseConfigError] at h
      | none =>
        simp only [runHostOp, doConstruct, hc, Host.Outcome.next.injEq] at h
        subst h
        exact .inr ⟨a, hz, hn, hc, rfl⟩
    | write p b => exact absurd rfl (h2 p b)
    | tick => exact absurd rfl h1
    | reset => simp [runHostOp, hostReset, onEngine, hs'] at h
    | isReady => simp [runHostOp, hostIsReady, hs'] at h
    | mix r => simp [runHostOp, hostMix, hs'] at h
    | generate n rate r => simp [runHostOp, hostGenerate, hs'] at h
    | writeAt n p b =>
      simp only [runHostOp, hostWriteAt, Host.Outcome.next.injEq] at h
      subst h
      exact .inl hs'

/-- The rule for invariants of the engine. -/
theorem step_preserves {P : Engine → Prop}
    (hwrite : ∀ (e : Engine) p b, P e → (p = .stereo → e.cfg.hasStereo = true) → P (e.after (decode p b)))
    (htick : ∀ e : Engine, P e → P e.tick)
    (hreset : ∀ e : Engine, P e → P (Engine.initial e.cfg e.hostClockHz))
    (hconstruct : ∀ (a : ConfigArgs) (hz : Int), a.Legal → 1 ≤ hz → P (Engine.initial a.config hz.toNat))
    {s t : State} (hs : ∀ e, s.engine = some e → P e) (h : step s = .next t) :
    ∀ e, t.engine = some e → P e := by
  intro e' he'
  cases he : s.engine with
  | none =>
    rcases step_engine_none he h with ht | ⟨a, hz, -, hc, ht⟩ <;> rw [ht] at he' <;> cases he'
    obtain ⟨hlegal, hhz⟩ := checkConfig_eq_none.mp hc
    exact hconstruct a hz hlegal hhz
  | some e =>
    have hP := hs e he
    rcases step_engine he h with ⟨p, b, -, ht, hp⟩ | ⟨-, ht⟩ | ⟨-, ht⟩ | ⟨a, hz, -, hc, ht⟩ | ⟨ht, -⟩ <;>
      rw [ht] at he' <;> cases he'
    · exact hwrite e p b hP hp
    · exact htick e hP
    · exact hreset e hP
    · obtain ⟨hlegal, hhz⟩ := checkConfig_eq_none.mp hc
      exact hconstruct a hz hlegal hhz
    · exact hP

/-- With no held write, a tick of the host is a tick of the engine (R190). -/
theorem step_tick_of_due_nil {s : State} {e : Engine} (he : s.engine = some e) (hd : s.host.due = []) :
    step (s.pushInputs [.tick]) = .next (s.withEngine e.tick) := by
  obtain ⟨engine, _, due, _, _⟩ := s
  obtain rfl : engine = some e := he
  obtain rfl : due = [] := hd
  rfl

end Sys2Proof.Machine
end

section
/-! PROOFS. The parts of the engine's invariant, each kept by the operations on its part: the tone counters (spec
10_state.md R24), the noise channel (R26 to R28) and the ready line (R30, R191, R192). -/

namespace Sys2Proof.Machine

/-! The tone counters -/

theorem toneTick_counter_le (c : Config) {t : ToneChannel} (h : t.counter ≤ 1024) :
    (toneTick c t).1.counter ≤ 1024 := by
  rcases toneTick_cases c t with ⟨-, ht⟩ | ⟨-, ht⟩ <;> rw [ht]
  · exact effPeriod_le _ _
  · exact (Nat.sub_le _ _).trans h

/-! The noise channel -/

/-- The divisors that the noise rates 0 to 2 select (R135). -/
theorem noiseDivOf_of_mem {c : Config} {k d : Nat}
    (h : (k, d) ∈ [(0, c.noiseDiv0), (1, c.noiseDiv1), (2, c.noiseDiv2)]) : noiseDivOf c k = some d := by
  simp only [List.mem_cons, List.not_mem_nil, or_false, Prod.mk.injEq] at h
  rcases h with ⟨rfl, rfl⟩ | ⟨rfl, rfl⟩ | ⟨rfl, rfl⟩ <;> rfl

theorem noiseDivOf_le_maxNoiseDiv {c : Config} {k d : Nat} (h : noiseDivOf c k = some d) : d ≤ c.maxNoiseDiv := by
  unfold Config.maxNoiseDiv
  match k with
  | 0 | 1 | 2 =>
    cases h
    omega
  | _ + 3 => cases h

theorem noiseTick_of_div {c : Config} {n : NoiseChannel} {d : Nat}
    (h : noiseDivOf c (noiseRate n.control).toNat = some d) (u : Bool) : noiseTick c u n = noiseCount c d n := by
  rcases noiseTick_cases c u n with ⟨d', hd', ht⟩ | ⟨hr, -⟩
  · rw [h] at hd'
    cases hd'
    exact ht
  · rw [hr] at h
    cases h

theorem noiseTick_of_rate_three {c : Config} {n : NoiseChannel} (h : (noiseRate n.control).toNat = 3) (u : Bool) :
    noiseTick c u n = if u then noiseShift c n else n := by
  rcases noiseTick_cases c u n with ⟨d, hd, -⟩ | ⟨-, ht⟩
  · rw [h] at hd
    cases hd
  · exact ht

/-- A noise tick reloads the counter at a divisor of the configuration, or does not raise it. -/
theorem noiseTick_counter_cases (c : Config) (u : Bool) (n : NoiseChannel) :
    (∃ d ≤ c.maxNoiseDiv, (noiseTick c u n).counter = noiseReload d) ∨ (noiseTick c u n).counter ≤ n.counter := by
  rcases noiseTick_cases c u n with ⟨d, hd, ht⟩ | ⟨-, ht⟩ <;> rw [ht]
  · rcases noiseCount_cases c d n with ⟨-, hc⟩ | ⟨-, hc⟩ <;> rw [hc]
    · exact .inl ⟨d, noiseDivOf_le_maxNoiseDiv hd, rfl⟩
    · exact .inr (Nat.sub_le _ _)
  · right
    cases u <;> exact le_rfl

/-- The 11 bits of R5. -/
theorem noiseTick_counter_le (c : Config) (u : Bool) {n : NoiseChannel} (h : n.counter ≤ 1024) :
    (noiseTick c u n).counter ≤ 1024 := by
  rcases noiseTick_counter_cases c u n with ⟨d, -, hd⟩ | hle
  · exact hd ▸ noiseReload_le d
  · exact hle.trans h

/-- The range of R26. -/
theorem noiseTick_counter_le_maxNoiseDiv {c : Config} (u : Bool) {n : NoiseChannel} (h : n.counter ≤ c.maxNoiseDiv) :
    (noiseTick c u n).counter ≤ c.maxNoiseDiv := by
  rcases noiseTick_counter_cases c u n with ⟨d, hmax, hd⟩ | hle
  · exact hd ▸ (noiseReload_le_self d).trans hmax
  · exact hle.trans h

/-- A noise tick shifts the register once, or leaves it. -/
theorem noiseTick_lfsr_cases (c : Config) (u : Bool) (n : NoiseChannel) :
    ((noiseTick c u n).lfsr = (noiseShift c n).lfsr ∧ (noiseTick c u n).output = (noiseShift c n).output) ∨
      ((noiseTick c u n).lfsr = n.lfsr ∧ (noiseTick c u n).output = n.output) := by
  rcases noiseTick_cases c u n with ⟨d, -, ht⟩ | ⟨-, ht⟩ <;> rw [ht]
  · rcases noiseCount_cases c d n with ⟨-, hc⟩ | ⟨-, hc⟩ <;> rw [hc]
    · exact .inl ⟨rfl, rfl⟩
    · exact .inr ⟨rfl, rfl⟩
  · cases u
    · exact .inr ⟨rfl, rfl⟩
    · exact .inl ⟨rfl, rfl⟩

/-- The shift register has W bits (R27) and the output is its bit 0 (R28). -/
def NoiseChannel.LfsrOk (c : Config) (n : NoiseChannel) : Prop :=
  n.lfsr < 2 ^ c.width ∧ n.output = n.lfsr.testBit 0

theorem noiseTick_lfsrOk {c : Config} (u : Bool) {n : NoiseChannel} (h : n.LfsrOk c) : (noiseTick c u n).LfsrOk c := by
  unfold NoiseChannel.LfsrOk
  rcases noiseTick_lfsr_cases c u n with ⟨hl, ho⟩ | ⟨hl, ho⟩ <;> rw [hl, ho]
  · exact ⟨noiseShift_lt c n h.1, noiseShift_output c n⟩
  · exact h

/-- A write leaves the register, or reseeds it with the legal `LFSR_RESET` (R98, R137). -/
theorem Engine.after_lfsrOk {e : Engine} (i : Instr) (hreset : e.cfg.lfsrReset < 2 ^ e.cfg.width)
    (h : e.noise.LfsrOk e.cfg) : (e.after i).noise.LfsrOk e.cfg := by
  by_cases hi : ∃ d, i = .latchNctl d
  · obtain ⟨d, rfl⟩ := hi
    exact ⟨hreset, rfl⟩
  · obtain ⟨hl, ho⟩ := e.after_lfsr i (fun d hd => hi ⟨d, hd⟩)
    unfold NoiseChannel.LfsrOk
    rw [hl, ho]
    exact h

/-! The ready line -/

/-- The ready line's part of the invariant (R30, R191, R192, R195). -/
def ReadyLine.Ok (c : Config) (r : ReadyLine) : Prop :=
  (c.hasReady = true → r.cyclesToReady ≤ c.readyCycles) ∧
  r.ready = decide (r.cyclesToReady = 0) ∧
  (c.hasReady = false → r = ⟨true, 0⟩)

theorem readyOnWrite_of_hasReady {c : Config} (h : c.hasReady = true) (r : ReadyLine) :
    readyOnWrite c r = ⟨false, c.readyCycles⟩ := if_pos h

theorem readyOnWrite_of_not_hasReady {c : Config} (h : c.hasReady = false) (r : ReadyLine) :
    readyOnWrite c r = r := if_neg (by simp [h])

theorem readyOnWrite_ok {c : Config} {r : ReadyLine} (hc : c.hasReady = true → 1 ≤ c.readyCycles) (h : r.Ok c) :
    (readyOnWrite c r).Ok c := by
  cases hr : c.hasReady with
  | false =>
    rw [readyOnWrite_of_not_hasReady hr]
    exact h
  | true =>
    have hbusy : c.readyCycles ≠ 0 := Nat.one_le_iff_ne_zero.mp (hc hr)
    rw [readyOnWrite_of_hasReady hr]
    exact ⟨fun _ => le_rfl, (decide_eq_false hbusy).symm, fun hf => by simp [hr] at hf⟩

theorem readyTick_ok {c : Config} {r : ReadyLine} (h : r.Ok c) : (readyTick c r).Ok c := by
  have ⟨hrange, hready, _⟩ := h
  rcases readyTick_cases c r with ⟨hr, -, ht⟩ | ⟨hr, hgt, ht⟩ | ⟨-, ht⟩ <;> rw [ht]
  · exact ⟨fun _ => Nat.zero_le _, rfl, fun _ => rfl⟩
  · have hbusy : r.ready = false := by
      rw [hready]
      exact decide_eq_false (by omega)
    have hleft : r.cyclesToReady - 1 ≠ 0 := by omega
    exact ⟨fun _ => (Nat.sub_le _ _).trans (hrange hr), hbusy.trans (decide_eq_false hleft).symm,
      fun hf => by simp [hr] at hf⟩
  · exact h

/-- A write restarts the ready line on `MAIN` and leaves it on `STEREO`. -/
theorem Engine.after_readyLine_ok {e : Engine} (i : Instr) (hc : e.cfg.hasReady = true → 1 ≤ e.cfg.readyCycles)
    (h : e.readyLine.Ok e.cfg) : (e.after i).readyLine.Ok e.cfg := by
  by_cases hi : ∃ m, i = .stereo m
  · obtain ⟨m, rfl⟩ := hi
    exact h
  · rw [e.after_readyLine i (fun m hm => hi ⟨m, hm⟩)]
    exact readyOnWrite_ok hc h

end Sys2Proof.Machine
end

section
/-! PROOFS. The invariant of the engine holds at reset, and every step keeps it. -/

namespace Sys2Proof.Machine

/-- The invariant from its parts. -/
theorem Engine.inv_iff {e : Engine} :
    e.Inv ↔ e.cfg.Legal ∧ 1 ≤ e.hostClockHz ∧ (∀ c, (e.tone c).counter ≤ 1024) ∧
      e.noise.counter ≤ e.cfg.maxNoiseDiv ∧ e.noise.counter ≤ 1024 ∧ e.noise.LfsrOk e.cfg ∧
      e.readyLine.Ok e.cfg ∧ (e.cfg.hasStereo = false → e.stereoMask = 0xFF) :=
  ⟨fun h => ⟨h.legal, h.hostClock, h.toneCounter, h.noiseCounter, h.noiseCounterWidth, ⟨h.lfsrWidth, h.noiseOut⟩,
      ⟨h.readyRange, h.readyCount, h.readyAbsent⟩, h.stereoAbsent⟩,
    fun ⟨legal, clock, tone, noise, width, ⟨lfsr, out⟩, ⟨range, count, absent⟩, stereo⟩ =>
      ⟨legal, clock, tone, noise, width, lfsr, out, range, count, absent, stereo⟩⟩

@[simp] theorem Engine.initial_tone_counter (c : Config) (hz : Nat) (i : ToneId) :
    ((Engine.initial c hz).tone i).counter = 0 := by
  cases i <;> rfl

/-- The reset state of a legal configuration meets the invariant (R35). -/
theorem Engine.initial_inv {c : Config} {hz : Nat} (hc : c.Legal) (hhz : 1 ≤ hz) : (Engine.initial c hz).Inv := by
  have ⟨_, _, _, hreset, _⟩ := hc
  exact Engine.inv_iff.mpr ⟨hc, hhz, fun i => by simp, Nat.zero_le _, Nat.zero_le _, ⟨hreset, rfl⟩,
    ⟨fun _ => Nat.zero_le _, rfl, fun _ => rfl⟩, fun _ => rfl⟩

/-- A write that the variant has a port for keeps the invariant. -/
theorem Engine.Inv.after {e : Engine} (h : e.Inv) {i : Instr} (hi : ∀ m, i = .stereo m → e.cfg.hasStereo = true) :
    (e.after i).Inv := by
  obtain ⟨hlegal, hclock, htone, hnoise, hwidth, hlfsr, hready, hstereo⟩ := Engine.inv_iff.mp h
  have ⟨_, _, _, hreset, _, _, _, _, _, hcycles⟩ := hlegal
  refine Engine.inv_iff.mpr ⟨?_, ?_, fun c => ?_, ?_, ?_, ?_, ?_, ?_⟩ <;>
    simp only [Engine.after_cfg, Engine.after_hostClockHz, Engine.after_counter, Engine.after_noiseCounter]
  · exact hlegal
  · exact hclock
  · exact htone c
  · exact hnoise
  · exact hwidth
  · exact Engine.after_lfsrOk i hreset hlfsr
  · exact Engine.after_readyLine_ok i hcycles hready
  · intro hno
    rw [e.after_stereoMask i (fun m hm => by simp [hi m hm] at hno)]
    exact hstereo hno

theorem Engine.Inv.tick {e : Engine} (h : e.Inv) : e.tick.Inv := by
  obtain ⟨hlegal, hclock, htone, hnoise, hwidth, hlfsr, hready, hstereo⟩ := Engine.inv_iff.mp h
  refine Engine.inv_iff.mpr ⟨hlegal, hclock, fun c => ?_, noiseTick_counter_le_maxNoiseDiv _ hnoise,
    noiseTick_counter_le _ _ hwidth, noiseTick_lfsrOk _ hlfsr, readyTick_ok hready, hstereo⟩
  rw [Engine.tick_tone]
  exact toneTick_counter_le _ (htone c)

/-- Only a byte on `STEREO` decodes to the stereo write. -/
theorem port_of_decode_stereo {p : Port} {b : Byte} {m : BitVec 8} (h : decode p b = .stereo m) : p = .stereo := by
  cases p
  · exact absurd h (decode_main_ne_stereo b m)
  · rfl

/-- Settles O50: the reset and `construct` start again from the reset state, and a write and a tick keep each part of
the invariant. -/
theorem stepKeepsInvariant : Obligations.StepKeepsInvariant := by
  intro s t hs h
  refine step_preserves (fun e p b he hp => ?_) (fun e he => he.tick)
    (fun e he => Engine.initial_inv he.legal he.hostClock) (fun a hz hlegal hhz => ?_) hs h
  · exact he.after fun m hm => hp (port_of_decode_stereo hm)
  · exact Engine.initial_inv (ConfigArgs.config_legal hlegal) (by omega)

/-- Settles O49: the reset state of any legal configuration, V2 (log 1) among them. -/
theorem invariantHoldsAtReset : Obligations.InvariantHoldsAtReset := by
  refine ⟨fun c hz hc hhz => Engine.initial_inv hc hhz, fun e he => ?_⟩
  cases he
  exact Engine.initial_inv (by decide) (by decide)

/-- Settles O54: a write keeps the counters, a tick reloads within the range or counts down, and an engine starts at 0,
with no need of a legal configuration. -/
theorem countersHoldElevenBits : Obligations.CountersHoldElevenBits := by
  intro s t hs h
  have hinit (c : Config) (hz : Nat) : (∀ i, ((Engine.initial c hz).tone i).counter ≤ 1024) ∧
      (Engine.initial c hz).noise.counter ≤ 1024 := ⟨fun i => by simp, Nat.zero_le _⟩
  refine step_preserves (fun e p b he _ => ?_) (fun e ⟨htone, hnoise⟩ => ⟨fun c => ?_, ?_⟩)
    (fun e _ => hinit _ _) (fun a hz _ _ => hinit _ _) hs h
  · simpa using he
  · rw [Engine.tick_tone]
    exact toneTick_counter_le _ (htone c)
  · exact noiseTick_counter_le _ _ hnoise

end Sys2Proof.Machine
end

section
/-! PROOFS. `construct` accepts exactly the legal configurations (spec 00_scope.md R7, 44_engine.md R196). -/

namespace Sys2Proof.Machine

/-- A new engine has every field at its reset value (R35). -/
theorem Engine.initial_atReset (c : Config) (hz : Nat) : (Engine.initial c hz).AtReset where
  periods := ⟨rfl, rfl, rfl⟩
  attenuations := ⟨rfl, rfl, rfl, rfl⟩
  noiseControl := rfl
  latched := rfl
  toneCounter := Engine.initial_tone_counter c hz
  toneOut i := by cases i <;> rfl
  noiseCounter := rfl
  lfsr := rfl
  noiseOut := rfl
  stereoMask := rfl
  ready := rfl
  cyclesToReady := rfl

theorem doConstruct_next {a : ConfigArgs} {hz : Int} {s t : State} (h : doConstruct a hz s = .next t) :
    a.Legal ∧ 1 ≤ hz := by
  refine checkConfig_eq_none.mp ?_
  cases hc : checkConfig a hz with
  | none => rfl
  | some r => simp [doConstruct, hc, raiseConfigError] at h

/-- Settles O42: `construct` goes through when no check fails, which is when its arguments are legal. -/
theorem constructAcceptsLegalOnly : Obligations.ConstructAcceptsLegalOnly := by
  refine ⟨fun a hz s => ?_, fun c => ⟨Config.args_config c, Config.args_legal⟩⟩
  have hrun : step (s.pushInputs [.construct a hz]) = doConstruct a hz s := rfl
  rw [hrun]
  refine ⟨⟨fun ⟨t, ht⟩ => doConstruct_next ht, fun ⟨hl, hhz⟩ => ⟨_, doConstruct_of_legal hl hhz s⟩⟩, fun t ht => ?_⟩
  obtain ⟨hl, hhz⟩ := doConstruct_next ht
  rw [doConstruct_of_legal hl hhz] at ht
  cases ht
  exact ⟨_, rfl, Engine.initial_atReset _ _, rfl, ConfigArgs.config_legal hl, Int.toNat_of_nonneg (by omega)⟩

end Sys2Proof.Machine
end

section
/-! PROOFS. The noise channel tick by tick, and its shifts counted from a reload (spec 42_noise.md R135, R136). -/

namespace Sys2Proof.Machine

/-- Settles O24: the tick of the noise channel at its rate's divisor, or on tone 2's underflow. -/
theorem noiseTickByRate : Obligations.NoiseTickByRate := by
  intro s e he hd
  refine ⟨e.tick, step_tick_of_due_nil he hd, fun k d hkd hk => ?_, fun hr => ?_⟩
  · have hdiv : noiseDivOf e.cfg (noiseRate e.noise.control).toNat = some d := hk ▸ noiseDivOf_of_mem hkd
    rw [Engine.tick_noise, noiseTick_of_div hdiv]
    rcases noiseCount_cases e.cfg d e.noise with ⟨hle, hc⟩ | ⟨hgt, hc⟩ <;> rw [hc]
    · exact ⟨fun _ => ⟨rfl, noiseReload_of_le, noiseReload_le d⟩, fun hn => absurd hn (by omega)⟩
    · exact ⟨fun hn => absurd hn (by omega), fun _ => rfl⟩
  · rw [Engine.tick_noise, noiseTick_of_rate_three hr, toneTick_underflow]
    exact ⟨fun hle => if_pos (decide_eq_true hle), fun hgt => if_neg (hgt ∘ of_decide_eq_true)⟩

/-- At a rate of 0 to 2 the noise channel counts by itself, whatever the tones do. -/
theorem Engine.ticks_noise_of_div {e : Engine} {d : Nat}
    (h : noiseDivOf e.cfg (noiseRate e.noise.control).toNat = some d) (n : Nat) :
    (e.ticks n).noise = (noiseCount e.cfg d)^[n] e.noise := by
  induction n with
  | zero => rfl
  | succ n ih =>
    rw [Function.iterate_succ_apply', ← ih, Engine.ticks_succ, Engine.tick_noise, Engine.ticks_cfg]
    exact noiseTick_of_div (by rw [Engine.ticks_control]; exact h) _

/-- The last step of a round of `m` begins the next one. -/
theorem div_mod_succ_of_last {n m : Nat} (h : n % m + 1 = m) : (n + 1) / m = n / m + 1 ∧ (n + 1) % m = 0 := by
  have hdiv := Nat.mod_add_div n m
  refine (Nat.div_mod_unique (by omega)).mpr ⟨?_, by omega⟩
  rw [Nat.mul_succ]
  omega

/-- Any other step of the round is one step on. -/
theorem div_mod_succ_of_lt {n m : Nat} (h : n % m + 1 < m) : (n + 1) / m = n / m ∧ (n + 1) % m = n % m + 1 := by
  have hdiv := Nat.mod_add_div n m
  exact (Nat.div_mod_unique (by omega)).mpr ⟨by omega, h⟩

/-- From a reload the counter runs through its range once for each shift; a reload of 0 acts as one of 1. -/
theorem noiseCount_iterate (c : Config) (d : Nat) {a : NoiseChannel} (h : a.counter = noiseReload d) {m : Nat}
    (hm : m = max 1 (noiseReload d)) (n : Nat) :
    (noiseCount c d)^[n] a = { (noiseShift c)^[n / m] a with counter := noiseReload d - n % m } := by
  induction n with
  | zero =>
    rw [Nat.zero_div, Nat.zero_mod, Nat.sub_zero, ← h]
    rfl
  | succ n ih =>
    rw [Function.iterate_succ_apply', ih]
    have hlt : n % m < m := Nat.mod_lt n (by omega)
    rcases noiseCount_cases c d { (noiseShift c)^[n / m] a with counter := noiseReload d - n % m } with
      ⟨hle, hn⟩ | ⟨hgt, hn⟩ <;> rw [hn]
    · have hlast : n % m + 1 = m := by
        dsimp only at hle
        omega
      obtain ⟨hq, hr⟩ := div_mod_succ_of_last hlast
      rw [hq, hr, Function.iterate_succ_apply']
      rfl
    · have hmore : n % m + 1 < m := by
        dsimp only at hgt
        omega
      obtain ⟨hq, hr⟩ := div_mod_succ_of_lt hmore
      rw [hq, hr, Nat.sub_sub]

/-- Settles O25: the count from a reload, at a divisor the counter holds and at a wider one. -/
theorem noiseShiftsEveryDivisor : Obligations.NoiseShiftsEveryDivisor := by
  intro e k d hkd hk hd
  have hdiv : noiseDivOf e.cfg (noiseRate e.noise.control).toNat = some d := hk ▸ noiseDivOf_of_mem hkd
  refine ⟨fun hle hc n => ?_, fun _ hc n => ?_⟩ <;> rw [Engine.ticks_noise_of_div hdiv]
  · have hreload := noiseReload_of_le hle
    rw [noiseCount_iterate e.cfg d (hc.trans hreload.symm) (m := d) (by omega), hreload]
  · exact noiseCount_iterate e.cfg d hc rfl n

end Sys2Proof.Machine
end

section
/-! PROOFS. The decoder reads back the byte of every instruction (spec 30_encoding.md R70 to R73, R81). -/

namespace Sys2Proof

@[simp] theorem latchIndex_latchByte (r : BitVec 3) (d : BitVec 4) : latchIndex (latchByte r d) = r :=
  (BitVec.extractLsb'_append_eq_of_le (by decide)).trans BitVec.extractLsb'_append_eq_right

@[simp] theorem latchData_latchByte (r : BitVec 3) (d : BitVec 4) : latchData (latchByte r d) = d :=
  BitVec.extractLsb'_append_eq_right

theorem getLsbD_seven_latchByte (r : BitVec 3) (d : BitVec 4) : (latchByte r d).getLsbD 7 = true := by
  unfold latchByte
  rw [BitVec.getLsbD_append, BitVec.getLsbD_append]
  rfl

/-- A byte with bit 7 set is a latch byte (R73). -/
theorem decode_main_of_latch {b : Byte} (h : b.getLsbD 7 = true) :
    decode .main b = decodeLatch (latchIndex b) (latchData b) := if_pos h

/-- A byte with bit 7 clear is a data byte (R73). -/
theorem decode_main_of_data {b : Byte} (h : b.getLsbD 7 = false) :
    decode .main b = .data (dataIgnored b) (dataHigh b) := if_neg (ne_true_of_eq_false h)

theorem decode_latchByte (r : BitVec 3) (d : BitVec 4) : decode .main (latchByte r d) = decodeLatch r d := by
  rw [decode_main_of_latch (getLsbD_seven_latchByte r d), latchIndex_latchByte, latchData_latchByte]

theorem decode_dataByte (x : BitVec 1) (h : BitVec 6) : decode .main ((0#1 ++ x) ++ h) = .data x h := by
  have hbit : BitVec.getLsbD ((0#1 ++ x) ++ h) 7 = false := by
    rw [BitVec.getLsbD_append, BitVec.getLsbD_append]
    rfl
  have hx : dataIgnored ((0#1 ++ x) ++ h) = x :=
    (BitVec.extractLsb'_append_eq_of_le (by decide)).trans BitVec.extractLsb'_append_eq_right
  have hh : dataHigh ((0#1 ++ x) ++ h) = h := BitVec.extractLsb'_append_eq_right
  rw [decode_main_of_data hbit, hx, hh]

theorem decode_encode (i : Instr) : decode (encode i).1 (encode i).2 = i := by
  cases i with
  | latchT0F d => exact decode_latchByte 0 d
  | latchT0A d => exact decode_latchByte 1 d
  | latchT1F d => exact decode_latchByte 2 d
  | latchT1A d => exact decode_latchByte 3 d
  | latchT2F d => exact decode_latchByte 4 d
  | latchT2A d => exact decode_latchByte 5 d
  | latchNctl d => exact decode_latchByte 6 d
  | latchNatt d => exact decode_latchByte 7 d
  | data x h => exact decode_dataByte x h
  | stereo m => rfl

end Sys2Proof
end

section
/-! PROOFS. A step that carries out a write runs the instruction its byte decodes to (spec 10_state.md R32,
20_memory.md R50, R57). -/

namespace Sys2Proof

/-- A word of one byte is that byte on `MAIN` (log 4). -/
theorem tableWrite_main (b : Byte) : tableWrite 8 b.toNat = some (.main, b) := by
  have hv : b.toNat % 256 = b.toNat := Nat.mod_eq_of_lt b.isLt
  have hport : b.toNat / 256 = 0 := Nat.div_eq_of_lt b.isLt
  simp [tableWrite, hv, hport]

/-- A word of two bytes, the second of them 1, is its first byte on `STEREO` (log 4). -/
theorem tableWrite_stereo (b : Byte) : tableWrite 16 (256 + b.toNat) = some (.stereo, b) := by
  have hb : b.toNat < 256 := b.isLt
  have hv : (256 + b.toNat) % 65536 = 256 + b.toNat := Nat.mod_eq_of_lt (by omega)
  have hport : (256 + b.toNat) / 256 = 1 := by omega
  have hbyte : BitVec.ofNat 8 (256 + b.toNat) = b := BitVec.eq_of_toNat_eq (by simpa using hb)
  simp only [tableWrite, Nat.reducePow, hv, hport, hbyte, OfNat.ofNat_ne_zero, if_false]

namespace Machine

theorem step_write (s : State) (p : Port) (b : Byte) : step (s.pushInputs [.write p b]) = exec (decode p b) s := rfl

theorem step_withFetchWord {nbits w : Nat} {p : Port} {b : Byte} (h : tableWrite nbits w = some (p, b)) (s : State) :
    step (s.withFetchWord nbits w) = exec (decode p b) s := by
  simp only [State.withFetchWord, h, step_write]

/-- Settles O7: the decoder reads the encoded byte back, and each form of word stands for the write of its byte. -/
theorem stepRunsDecodedWrite : Obligations.StepRunsDecodedWrite := by
  refine ⟨fun s i rest hin => ?_, step_write, fun s b => step_withFetchWord (tableWrite_main b) s,
    fun s b => step_withFetchWord (tableWrite_stereo b) s⟩
  rw [step_cons hin]
  exact congrArg (exec · _) (decode_encode i)

end Machine

end Sys2Proof
end

section
/-! PROOFS. A reset and a `construct` leave every field at its reset value (spec 10_state.md R35,
70_reset_and_hazards.md R230). -/

namespace Sys2Proof.Machine

/-- The step of a reset puts the running engine into the reset state and `sample_acc` at 0 (R230). -/
theorem step_reset {s : State} {e : Engine} (he : s.engine = some e) :
    step (s.pushInputs [.reset]) =
      .next { engine := some (Engine.initial e.cfg e.hostClockHz), host := { s.host with sampleAcc := 0 } } :=
  onEngine_some (s := { s with host := { s.host with sampleAcc := 0 } }) he

/-- Settles O38: a reset and a `construct` both leave an engine in the reset state. -/
theorem resetSetsEveryField : Obligations.ResetSetsEveryField := by
  intro s e he
  refine ⟨_, step_reset he, Engine.initial_atReset _ _, rfl, rfl, fun a hz hlegal hhz => ?_⟩
  exact ⟨_, doConstruct_of_legal hlegal hhz s, Engine.initial_atReset _ _⟩

/-- Settles O39: the interface's reset state holds a new engine of V2 (log 1), whose configuration is legal. -/
theorem resetStateIsTheSpecs : Obligations.ResetStateIsTheSpecs :=
  ⟨rfl, _, rfl, Engine.initial_atReset _ _, by decide⟩

end Sys2Proof.Machine
end

section
/-! PROOFS. Which operation writes which field of the engine (spec 10_state.md R22 to R24, R26, R29). -/

namespace Sys2Proof.Machine

@[simp] theorem Engine.setStereo_reg (e : Engine) (m : BitVec 8) (i : BitVec 3) :
    (e.setStereo m).reg i = e.reg i := rfl

/-- A data byte keeps the latch pointer (R100). -/
@[simp] theorem Engine.dataByte_lastLatched (e : Engine) (h : BitVec 6) :
    (e.dataByte h).lastLatched = e.lastLatched := by
  unfold Engine.dataByte
  cases dataTarget e.lastLatched with
  | none => rfl
  | some c => exact Engine.setTone_lastLatched _ _ _

/-- On `MAIN` only a latch byte changes the latch pointer (R23, R90). -/
theorem getLsbD_seven_of_lastLatched_ne {e : Engine} {b : Byte}
    (h : (e.after (decode .main b)).lastLatched ≠ e.lastLatched) : b.getLsbD 7 = true := by
  cases hbit : b.getLsbD 7 with
  | true => rfl
  | false =>
    rw [decode_main_of_data hbit] at h
    exact absurd (e.dataByte_lastLatched _) h

/-- Settles O47: a write keeps the counters, and on `MAIN` the mask, on `STEREO` all but the mask; a tick keeps the
registers, the latch pointer and the mask; what is neither, a reset nor a `construct` keeps the engine. -/
theorem fieldsChangeByTheirWriters : Obligations.FieldsChangeByTheirWriters := by
  intro s t e e' he hstep he' hconstruct hreset
  rcases step_engine he hstep with ⟨p, b, hop, ht, -⟩ | ⟨hop, ht⟩ | ⟨hop, -⟩ | ⟨a, hz, hop, -⟩ | ⟨ht, -⟩
  · obtain rfl : e.after (decode p b) = e' := Option.some.inj (ht.symm.trans he')
    rw [hop]
    have hcounters : ¬ ((∃ c, ((e.after (decode p b)).tone c).counter ≠ (e.tone c).counter) ∨
        (e.after (decode p b)).noise.counter ≠ e.noise.counter) := by simp
    cases p with
    | main =>
      exact ⟨fun _ => ⟨b, rfl⟩, fun hne => ⟨b, rfl, getLsbD_seven_of_lastLatched_ne hne⟩,
        fun hne => absurd hne hcounters,
        fun hne => absurd (e.after_stereoMask _ (decode_main_ne_stereo b)) hne⟩
    | stereo =>
      exact ⟨fun ⟨i, hne⟩ => absurd (e.setStereo_reg b i) hne, fun hne => absurd rfl hne,
        fun hne => absurd hne hcounters, fun _ => ⟨b, rfl, rfl⟩⟩
  · obtain rfl : e.tick = e' := Option.some.inj (ht.symm.trans he')
    exact ⟨fun ⟨i, hne⟩ => absurd (e.tick_reg i) hne, fun hne => absurd rfl hne, fun _ => hop,
      fun hne => absurd rfl hne⟩
  · exact absurd hop hreset
  · exact absurd hop (hconstruct a hz)
  · obtain rfl : e = e' := Option.some.inj (ht.symm.trans he')
    simp

end Sys2Proof.Machine
end

section
/-! PROOFS. An access to a port is one byte (spec 20_memory.md R52). -/

namespace Sys2Proof

/-- No wider access exists (R52). -/
theorem decodeBytes_of_two_le_length (p : Port) : ∀ {l : List Byte}, 2 ≤ l.length →
    decodeBytes p l = .error .widerThanOneByte
  | [], h => absurd h (by decide)
  | [_], h => absurd h (Nat.lt_irrefl 1)
  | _ :: _ :: _, _ => rfl

/-- Settles O4: one byte is decoded, and an access of any other length is refused by its name. -/
theorem accessIsOneByte : Obligations.AccessIsOneByte :=
  ⟨fun _ _ => rfl, fun _ => rfl, fun p _ h => decodeBytes_of_two_le_length p h⟩

end Sys2Proof
end

section
/-! PROOFS. The host's tick with and without a held write that is due (spec 20_memory.md R58, log 13). -/

namespace Sys2Proof.Machine

theorem step_tick (s : State) : step (s.pushInputs [.tick]) = hostTick s := rfl

/-- A due write runs in the tick's place, and the tick is still to come. -/
theorem hostTick_of_takeDue_some {s : State} {w : DueWrite} {rest : List DueWrite}
    (h : takeDue s.host.due = some (w, rest)) :
    hostTick s =
      exec (decode w.port w.byte) ({ s with host := { s.host with due := rest } }.pushInputs [.tick]) := by
  simp only [hostTick, h, hostWrite]

/-- With no write due the engine ticks and the held writes come one tick nearer. -/
theorem hostTick_of_takeDue_none {s : State} (h : takeDue s.host.due = none) :
    hostTick s = onEngine Engine.tick { s with host := { s.host with due := ageDue s.host.due } } := by
  simp only [hostTick, h]

/-- Settles O53: the write taken is the first that is due, and with none taken the tick runs. -/
theorem dueWriteComesBeforeTick : Obligations.DueWriteComesBeforeTick := by
  refine ⟨fun s p b pre rest hdue hpre => ?_, fun s e he hdue => ?_⟩ <;> rw [step_tick]
  · have htake : takeDue s.host.due = some (⟨0, p, b⟩, pre ++ rest) := hdue ▸ takeDue_append hpre
    exact hostTick_of_takeDue_some htake
  · rw [hostTick_of_takeDue_none (takeDue_eq_none.mpr hdue)]
    exact onEngine_some he

end Sys2Proof.Machine
end

section
/-! PROOFS. What a write on `MAIN` leaves unchanged, and a period written by a latch byte and a data byte (spec
20_memory.md R59, 30_encoding.md R76, 40_register_writes.md R91, R100). -/

namespace Sys2Proof

/-- `latchByte` by shifts (R70). -/
theorem latchByte_eq_or (r : BitVec 3) (d : BitVec 4) :
    0x80#8 ||| (r.setWidth 8 <<< 4) ||| d.setWidth 8 = latchByte r d := by
  revert r d
  decide

theorem decodeLatch_ne_stereo (r : BitVec 3) (d : BitVec 4) (m : BitVec 8) : decodeLatch r d ≠ .stereo m :=
  decode_latchByte r d ▸ decode_main_ne_stereo (latchByte r d) m

/-- Six bits with the other two clear are a data byte (R71). -/
theorem decode_main_setWidth (h : BitVec 6) : decode .main (h.setWidth 8) = .data 0 h := by
  have hbyte : h.setWidth 8 = (0#1 ++ 0#1) ++ h := by
    revert h
    decide
  rw [hbyte]
  exact decode_dataByte 0 h

namespace Machine

/-! The registers -/

theorem Engine.reg_periodIndex (e : Engine) (c : ToneId) : e.reg c.periodIndex = (e.tone c).period := by
  cases c <;> rfl

@[simp] theorem Engine.setLatched_reg (e : Engine) (r i : BitVec 3) : (e.setLatched r).reg i = e.reg i := rfl

@[simp] theorem Engine.startWrite_reg (e : Engine) (i : BitVec 3) : e.startWrite.reg i = e.reg i := rfl

theorem Engine.setPeriod_reg (e : Engine) (c : ToneId) (p : BitVec 10) (i : BitVec 3) :
    (e.setPeriod c p).reg i = if i = c.periodIndex then p else e.reg i := by
  rcases index_cases i with rfl | rfl | rfl | rfl | rfl | rfl | rfl | rfl <;> cases c <;> rfl

@[simp] theorem Engine.setPeriod_reg_periodIndex (e : Engine) (c : ToneId) (p : BitVec 10) :
    (e.setPeriod c p).reg c.periodIndex = p := (e.setPeriod_reg c p _).trans (if_pos rfl)

theorem Engine.setPeriod_reg_of_ne (e : Engine) {c : ToneId} (p : BitVec 10) {i : BitVec 3}
    (h : i ≠ c.periodIndex) : (e.setPeriod c p).reg i = e.reg i :=
  (e.setPeriod_reg c p i).trans (if_neg h)

/-! The frame of a write on `MAIN` -/

theorem Engine.ReadyRestarted.trans {e₁ e₂ e₃ : Engine} (hcfg : e₂.cfg = e₁.cfg) (h : e₁.ReadyRestarted e₂)
    (h' : e₂.ReadyRestarted e₃) : e₁.ReadyRestarted e₃ := by
  obtain ⟨-, hkept⟩ := h
  obtain ⟨hbusy', hkept'⟩ := h'
  rw [hcfg] at hbusy' hkept'
  exact ⟨hbusy', fun hno => (hkept' hno).trans (hkept hno)⟩

/-- Two writes to one register have the frame of one. -/
theorem Engine.MainWrite.trans {target : Option (BitVec 3)} {e₁ e₂ e₃ : Engine} (h : e₁.MainWrite target e₂)
    (h' : e₂.MainWrite target e₃) : e₁.MainWrite target e₃ where
  cfg := h'.cfg.trans h.cfg
  hostClock := h'.hostClock.trans h.hostClock
  regs i hi := (h'.regs i hi).trans (h.regs i hi)
  toneCounter c := (h'.toneCounter c).trans (h.toneCounter c)
  toneOut c := (h'.toneOut c).trans (h.toneOut c)
  noiseCounter := h'.noiseCounter.trans h.noiseCounter
  stereoMask := h'.stereoMask.trans h.stereoMask
  ready := h.ready.trans h.cfg h'.ready

/-- An instruction of `MAIN` has the frame of its target register once it keeps the other registers (R90, R102). -/
theorem Engine.after_mainWrite {e : Engine} {i : Instr} {target : Option (BitVec 3)} (hi : ∀ m, i ≠ .stereo m)
    (hregs : ∀ r, target ≠ some r → (e.after i).reg r = e.reg r) : e.MainWrite target (e.after i) where
  cfg := e.after_cfg i
  hostClock := e.after_hostClockHz i
  regs := hregs
  toneCounter := e.after_counter i
  toneOut := e.after_output i
  noiseCounter := e.after_noiseCounter i
  stereoMask := e.after_stereoMask i hi
  ready := by
    rw [Engine.ReadyRestarted, e.after_readyLine i hi]
    exact ⟨fun h => readyOnWrite_of_hasReady h _, fun h => readyOnWrite_of_not_hasReady h _⟩

/-! The latch byte of a period -/

theorem Engine.after_decodeLatch_periodIndex (e : Engine) (c : ToneId) (d : BitVec 4) :
    e.after (decodeLatch c.periodIndex d) = e.latchFreq c d := by
  cases c <;> rfl

theorem Engine.latchFreq_reg_periodIndex (e : Engine) (c : ToneId) (d : BitVec 4) :
    (e.latchFreq c d).reg c.periodIndex = latchPeriod e.cfg.latchFreqPolicy (e.reg c.periodIndex) d := by
  rw [Engine.reg_periodIndex e]
  exact Engine.setPeriod_reg_periodIndex _ _ _

@[simp] theorem Engine.latchFreq_lastLatched (e : Engine) (c : ToneId) (d : BitVec 4) :
    (e.latchFreq c d).lastLatched = some c.periodIndex := rfl

theorem Engine.latchFreq_mainWrite (e : Engine) (c : ToneId) (d : BitVec 4) :
    e.MainWrite (some c.periodIndex) (e.latchFreq c d) := by
  rw [← e.after_decodeLatch_periodIndex c d]
  refine Engine.after_mainWrite (decodeLatch_ne_stereo _ _) fun r hr => ?_
  rw [e.after_decodeLatch_periodIndex c d]
  exact Engine.setPeriod_reg_of_ne _ _ fun h => hr (congrArg some h.symm)

/-! The data byte after it -/

theorem dataTarget_periodIndex (c : ToneId) : dataTarget (some c.periodIndex) = some c := by
  cases c <;> rfl

/-- After a latch byte to a period a data byte goes to that period (R100). -/
theorem Engine.dataByte_of_latched {e : Engine} {c : ToneId} (hl : e.lastLatched = some c.periodIndex)
    (h : BitVec 6) : e.dataByte h = e.startWrite.setPeriod c (dataPeriod (e.tone c).period h) := by
  rw [Engine.dataByte, hl, dataTarget_periodIndex]

theorem Engine.dataByte_reg_periodIndex {e : Engine} {c : ToneId} (hl : e.lastLatched = some c.periodIndex)
    (h : BitVec 6) : (e.dataByte h).reg c.periodIndex = dataPeriod (e.reg c.periodIndex) h := by
  rw [Engine.dataByte_of_latched hl, Engine.setPeriod_reg_periodIndex, Engine.reg_periodIndex]

theorem Engine.dataByte_mainWrite {e : Engine} {c : ToneId} (hl : e.lastLatched = some c.periodIndex)
    (h : BitVec 6) : e.MainWrite (some c.periodIndex) (e.dataByte h) := by
  refine Engine.after_mainWrite (i := .data 0 h) (fun _ => nofun) fun r hr => ?_
  change (e.dataByte h).reg r = e.reg r
  rw [Engine.dataByte_of_latched hl]
  exact Engine.setPeriod_reg_of_ne _ _ fun hrc => hr (congrArg some hrc.symm)

/-! Both bytes -/

/-- The period after both bytes is theirs alone, under either policy (R76). -/
theorem dataPeriod_latchPeriod (policy : LatchFreqPolicy) (old p : BitVec 10) :
    dataPeriod (latchPeriod policy old (p.extractLsb' 0 4)) (p.extractLsb' 4 6) = p :=
  period_eq_of_fields ((dataPeriod_low _ _).trans (latchPeriod_low _ _ _)) (dataPeriod_high _ _)

/-- A tick at the end of the count reloads the period in force, if it is not 0 (R110, R111). -/
theorem Engine.tick_counter_of_le {e : Engine} {c : ToneId} (hle : (e.tone c).counter ≤ 1)
    (hp : (e.tone c).period ≠ 0) : (e.tick.tone c).counter = (e.tone c).period.toNat := by
  rw [Engine.tick_tone]
  rcases toneTick_cases e.cfg (e.tone c) with ⟨-, h⟩ | ⟨hgt, -⟩
  · rw [h]
    exact effPeriod_of_ne_zero _ hp
  · omega

/-- A write on `MAIN` goes through on every engine, and the host's later operations are still to come. -/
theorem step_write_main {s : State} {e : Engine} (he : s.engine = some e) (b : Byte) (ops : List HostOp) :
    step (s.pushInputs (.write .main b :: ops)) =
      .next ((s.withEngine (e.after (decode .main b))).pushInputs ops) :=
  exec_main_next (s := s.pushInputs ops) he (decode_main_ne_stereo b)

/-- Settles O15: the latch byte writes the low bits and points the data byte to the period, the data byte the high
bits; each keeps what the frame names. -/
theorem periodTakesTwoWrites : Obligations.PeriodTakesTwoWrites := by
  intro c p s e he
  have hlatched := e.latchFreq_lastLatched c (p.extractLsb' 0 4)
  have hreg : ((e.latchFreq c (p.extractLsb' 0 4)).dataByte (p.extractLsb' 4 6)).reg c.periodIndex = p := by
    rw [Engine.dataByte_reg_periodIndex hlatched, Engine.latchFreq_reg_periodIndex, dataPeriod_latchPeriod]
  have hframe := (e.latchFreq_mainWrite c (p.extractLsb' 0 4)).trans
    (Engine.dataByte_mainWrite hlatched (p.extractLsb' 4 6))
  refine ⟨_, ?_, hreg, hframe, fun hle hp => ?_⟩
  · rw [run_of_next (step_write_main he _ _), run_of_next (step_write_main rfl _ _), run_zero, latchByte_eq_or,
      decode_latchByte, Engine.after_decodeLatch_periodIndex, decode_main_setWidth]
    rfl
  · rw [Engine.reg_periodIndex] at hreg
    rw [Engine.tick_counter_of_le ((hframe.toneCounter c).trans_le hle) (fun h0 => hp (hreg.symm.trans h0)), hreg]

end Machine

end Sys2Proof
end

section
/-! PROOFS. Every byte on a port is the byte of the instruction it decodes to, and matches that instruction's row of the
opcode table and no other (spec 30_encoding.md R73, R74, R79, R80). -/

namespace Sys2Proof

/-- Settles O1: each latch row, the data row and the stereo row are read back by the decoder. -/
theorem decodeOfEncode : Obligations.DecodeOfEncode := decode_encode

/-! The fields of a byte are the whole byte -/

theorem extractLsb'_seven (b : Byte) : b.extractLsb' 7 1 = BitVec.ofBool (b.getLsbD 7) := by
  ext i hi
  obtain rfl : i = 0 := by omega
  simp

/-- A byte with bit 7 set is `1rrrdddd` of its own fields (R70). -/
theorem latchByte_of_fields {b : Byte} (h : b.getLsbD 7 = true) : latchByte (latchIndex b) (latchData b) = b := by
  have hbit : b.extractLsb' 7 1 = 1#1 := by rw [extractLsb'_seven, h]; rfl
  rw [latchByte, ← hbit, latchIndex, latchData,
    BitVec.extractLsb'_append_extractLsb'_eq_extractLsb' (show 7 = 4 + 3 from rfl),
    BitVec.extractLsb'_append_extractLsb'_eq_extractLsb' (show 4 = 0 + 4 from rfl)]
  exact BitVec.extractLsb'_eq_self

/-- A byte with bit 7 clear is a 0, its own ignored bit and its own six data bits (R71). -/
theorem dataByte_of_fields {b : Byte} (h : b.getLsbD 7 = false) : (0#1 ++ dataIgnored b) ++ dataHigh b = b := by
  have hbit : b.extractLsb' 7 1 = 0#1 := by rw [extractLsb'_seven, h]; rfl
  rw [← hbit, dataIgnored, dataHigh,
    BitVec.extractLsb'_append_extractLsb'_eq_extractLsb' (show 7 = 6 + 1 from rfl),
    BitVec.extractLsb'_append_extractLsb'_eq_extractLsb' (show 6 = 0 + 6 from rfl)]
  exact BitVec.extractLsb'_eq_self

theorem encode_decodeLatch (r : BitVec 3) (d : BitVec 4) : encode (decodeLatch r d) = (.main, latchByte r d) := by
  rcases Machine.index_cases r with rfl | rfl | rfl | rfl | rfl | rfl | rfl | rfl <;> rfl

theorem encode_decode (p : Port) (b : Byte) : encode (decode p b) = (p, b) := by
  cases p with
  | stereo => rfl
  | main =>
    cases h : b.getLsbD 7 with
    | true => rw [decode_main_of_latch h, encode_decodeLatch, latchByte_of_fields h]
    | false => rw [decode_main_of_data h, encode, dataByte_of_fields h]

/-- Settles O2: bit 7 tells which fields a byte on `MAIN` has, and they are the whole byte. -/
theorem encodeOfDecode : Obligations.EncodeOfDecode := encode_decode

/-! The row of a byte is told by its high four bits -/

theorem highNibble_and_mask : ∀ row ∈ opcodeTable, 0xF0 &&& row.mask = row.mask := by decide

theorem matchesWrite_highNibble {row : OpRow} (hrow : row ∈ opcodeTable) (p : Port) (b : Byte) :
    row.matchesWrite p (b &&& 0xF0) = row.matchesWrite p b := by
  rw [OpRow.matchesWrite, OpRow.matchesWrite, BitVec.and_assoc, highNibble_and_mask row hrow]

theorem mnemonic_decodeLatch (r : BitVec 3) (d d' : BitVec 4) :
    (decodeLatch r d).mnemonic = (decodeLatch r d').mnemonic := by
  rcases Machine.index_cases r with rfl | rfl | rfl | rfl | rfl | rfl | rfl | rfl <;> rfl

theorem latchIndex_highNibble (b : Byte) : latchIndex (b &&& 0xF0) = latchIndex b := by
  rw [latchIndex, BitVec.extractLsb'_and]
  exact BitVec.and_allOnes

theorem mnemonic_decode_highNibble (p : Port) (b : Byte) :
    (decode p (b &&& 0xF0)).mnemonic = (decode p b).mnemonic := by
  cases p with
  | stereo => rfl
  | main =>
    have hbit : (b &&& 0xF0).getLsbD 7 = b.getLsbD 7 := by rw [BitVec.getLsbD_and]; exact Bool.and_true _
    cases h : b.getLsbD 7 with
    | true =>
      rw [decode_main_of_latch h, decode_main_of_latch (hbit.trans h), latchIndex_highNibble]
      exact mnemonic_decodeLatch _ _ _
    | false => rw [decode_main_of_data h, decode_main_of_data (hbit.trans h)]; rfl

theorem highNibble_eq_append (b : Byte) : b &&& 0xF0 = b.extractLsb' 4 4 ++ 0#4 := by
  revert b
  decide

/-- The names of the table's rows that a byte on a port matches. -/
def rowsOf (p : Port) (b : Byte) : List String :=
  (opcodeTable.filter (fun row => row.matchesWrite p b)).map OpRow.mnemonic

theorem rowsOf_highNibble (p : Port) (b : Byte) : rowsOf p (b &&& 0xF0) = rowsOf p b :=
  congrArg (List.map OpRow.mnemonic) (List.filter_congr fun _ hrow => matchesWrite_highNibble hrow p b)

theorem rowsOf_append_zero (p : Port) (n : BitVec 4) : rowsOf p (n ++ 0#4) = [(decode p (n ++ 0#4)).mnemonic] := by
  cases p <;> revert n <;> decide

theorem rowsOf_eq (p : Port) (b : Byte) : rowsOf p b = [(decode p b).mnemonic] := by
  rw [← rowsOf_highNibble, ← mnemonic_decode_highNibble, highNibble_eq_append, rowsOf_append_zero]

theorem getLsbD_seven_of_toNat_le {b : Byte} (h : b.toNat ≤ 0x7F) : b.getLsbD 7 = false :=
  Nat.testBit_lt_two_pow (Nat.lt_succ_of_le h)

theorem ofNat_eq_latchByte (r : Fin 8) (d : Fin 16) :
    BitVec.ofNat 8 (0x80 + 16 * r.val + d.val) = latchByte (BitVec.ofFin r) (BitVec.ofFin d) := by
  revert r d
  decide

/-- Settles O3: the high four bits tell the row, and there are sixteen of them on each port. -/
theorem oneTableRowPerByte : Obligations.OneTableRowPerByte := by
  refine ⟨rowsOf_eq, fun b hb => ?_, fun r d => ?_, fun _ => rfl⟩
  · rw [decode_main_of_data (getLsbD_seven_of_toNat_le hb)]
    rfl
  · rw [ofNat_eq_latchByte, decode_latchByte, mnemonic_decodeLatch _ _ 0]
    revert r
    decide

end Sys2Proof
end

section
/-! PROOFS. The bits of a byte that are ignored, and that none of a stereo byte is (spec 30_encoding.md R78). -/

namespace Sys2Proof.Machine

/-- The noise control does not store bit 3 (R77). -/
theorem noiseControlOf_and_seven (d : BitVec 4) : noiseControlOf (d &&& 0b0111) = noiseControlOf d := by
  rw [noiseControlOf, BitVec.setWidth_and]
  exact BitVec.and_allOnes

theorem Engine.latchNoiseControl_and_seven (e : Engine) (d : BitVec 4) :
    e.latchNoiseControl (d &&& 0b0111) = e.latchNoiseControl d := by
  rw [Engine.latchNoiseControl, noiseControlOf_and_seven]
  rfl

/-- A stereo byte on a stereo variant stores the mask (R101). -/
theorem exec_stereo {s : State} {e : Engine} (he : s.engine = some e) (hst : e.cfg.hasStereo = true) (m : BitVec 8) :
    exec (.stereo m) s = .next (s.withEngine (e.setStereo m)) := by
  rcases exec_some (i := .stereo m) he with h | ⟨-, hno, -⟩
  · exact h
  · exact absurd hst (ne_true_of_eq_false hno)

/-- Settles O6: the data byte's meaning does not take bit 6, the noise control does not store bit 3, and the mask that a
stereo byte stores is the byte. -/
theorem ignoredBitsDoNothing : Obligations.IgnoredBitsDoNothing := by
  refine ⟨fun _ _ _ => rfl, fun d s => ?_, fun m m' s e he hst heq => ?_⟩
  · exact congrArg (onEngine · s) (funext fun e => (e.latchNoiseControl_and_seven d).symm)
  · rw [exec_stereo he hst, exec_stereo he hst] at heq
    injection heq with hs
    have hengine : e.setStereo m = e.setStereo m' := Option.some.inj (congrArg State.engine hs)
    exact congrArg Engine.stereoMask hengine

end Sys2Proof.Machine
end

section
/-! PROOFS. The latch bytes on `MAIN` in one form: the row a byte names, what its row leaves unchanged, and the count a
write does not touch (spec 40_register_writes.md R90, R102, 41_tone.md R113). -/

namespace Sys2Proof

/-- A latch byte written by shifts decodes to the row its index selects (R70, R74). -/
theorem decode_main_or (r : BitVec 3) (d : BitVec 4) :
    decode .main (0x80#8 ||| (r.setWidth 8 <<< 4) ||| d.setWidth 8) = decodeLatch r d := by
  rw [latchByte_eq_or, decode_latchByte]

/-- A data byte written by shifts decodes to its two fields (R71). -/
theorem decode_main_data_or (x : BitVec 1) (h : BitVec 6) :
    decode .main ((x.setWidth 8 <<< 6) ||| h.setWidth 8) = .data x h := by
  have hbyte : (x.setWidth 8 <<< 6) ||| h.setWidth 8 = (0#1 ++ x) ++ h := by
    revert x h
    decide
  rw [hbyte, decode_dataByte]

/-- Only register index 6 selects the noise control row (R74). -/
theorem decodeLatch_ne_latchNctl {r : BitVec 3} (hr : r ≠ 6) (d d' : BitVec 4) : decodeLatch r d ≠ .latchNctl d' := by
  intro heq
  have hindex : latchIndex (encode (decodeLatch r d)).2 = latchIndex (latchByte 6 d') := by rw [heq]; rfl
  rw [encode_decodeLatch, latchIndex_latchByte, latchIndex_latchByte] at hindex
  exact hr hindex

/-- The eight latch rows in the order of their index (R74). -/
theorem decodeLatch_eq_getD (r : BitVec 3) (d : BitVec 4) :
    decodeLatch r d =
      [Instr.latchT0F d, Instr.latchT0A d, Instr.latchT1F d, Instr.latchT1A d, Instr.latchT2F d,
        Instr.latchT2A d, Instr.latchNctl d, Instr.latchNatt d].getD r.toNat (Instr.latchNatt d) := by
  rcases Machine.index_cases r with rfl | rfl | rfl | rfl | rfl | rfl | rfl | rfl <;> rfl

/-- Settles O5: nine of the words are a latch byte or a data byte of their own fields. -/
theorem wordsWrittenOut : Obligations.WordsWrittenOut :=
  ⟨decode_latchByte 0 0b0101, decode_latchByte 1 0b1111, decode_latchByte 2 0b1100, decode_latchByte 3 0b0010,
    decode_latchByte 4 0b0001, decode_latchByte 5 0b0111, decode_latchByte 6 0b1100, decode_latchByte 7 0b0011,
    decode_dataByte 0b1 0b101010, decode_stereo _⟩

namespace Machine

/-- Every latch byte completes on a running engine (R90). -/
theorem exec_decodeLatch {s : State} {e : Engine} (he : s.engine = some e) (r : BitVec 3) (d : BitVec 4) :
    exec (decodeLatch r d) s = .next (s.withEngine (e.after (decodeLatch r d))) :=
  exec_main_next he (decodeLatch_ne_stereo r d)

/-- A latch byte changes no register but the one it names (R90). -/
theorem Engine.after_decodeLatch_reg (e : Engine) (r : BitVec 3) (d : BitVec 4) (i : BitVec 3) :
    (e.after (decodeLatch r d)).reg i = if i = r then (e.after (decodeLatch r d)).reg r else e.reg i := by
  rcases index_cases r with rfl | rfl | rfl | rfl | rfl | rfl | rfl | rfl <;>
    rcases index_cases i with rfl | rfl | rfl | rfl | rfl | rfl | rfl | rfl <;> rfl

theorem Engine.after_decodeLatch_mainWrite (e : Engine) (r : BitVec 3) (d : BitVec 4) :
    e.MainWrite (some r) (e.after (decodeLatch r d)) := by
  refine Engine.after_mainWrite (decodeLatch_ne_stereo r d) fun i hi => ?_
  rw [Engine.after_decodeLatch_reg, if_neg fun h => hi (congrArg some h.symm)]

/-- A latch byte points to the register it names, whatever its class (R90). -/
theorem Engine.after_decodeLatch_lastLatched (e : Engine) (r : BitVec 3) (d : BitVec 4) :
    (e.after (decodeLatch r d)).lastLatched = some r := by
  rcases index_cases r with rfl | rfl | rfl | rfl | rfl | rfl | rfl | rfl <;> rfl

theorem Engine.after_decodeLatch_sameLfsr (e : Engine) {r : BitVec 3} (hr : r ≠ 6) (d : BitVec 4) :
    e.SameLfsr (e.after (decodeLatch r d)) :=
  e.after_lfsr _ (decodeLatch_ne_latchNctl hr d)

/-- Every write on `MAIN` restarts the ready line (R90, R191). -/
theorem Engine.after_readyRestarted (e : Engine) {i : Instr} (hi : ∀ m, i ≠ .stereo m) :
    e.ReadyRestarted (e.after i) := by
  rw [Engine.ReadyRestarted, e.after_readyLine i hi]
  exact ⟨fun h => readyOnWrite_of_hasReady h _, fun h => readyOnWrite_of_not_hasReady h _⟩

/-! The count in progress -/

/-- Until the count has run out a channel only counts down (R111). -/
theorem Engine.ticks_tone_of_le (e : Engine) (c : ToneId) {n : Nat} (hn : n ≤ (e.tone c).counter - 1) :
    (e.ticks n).tone c = { e.tone c with counter := (e.tone c).counter - n } := by
  induction n with
  | zero => rfl
  | succ n ih =>
    rw [Engine.ticks_succ, Engine.tick_tone, Engine.ticks_cfg, ih (by omega)]
    rcases toneTick_cases e.cfg { e.tone c with counter := (e.tone c).counter - n } with ⟨hle, -⟩ | ⟨-, h⟩
    · dsimp only at hle
      omega
    · rw [h, Nat.sub_sub]

/-- When the count has run out the channel reloads the period in force and flips (R111); a count of 0 runs out on the
first tick. -/
theorem Engine.ticks_tone_underflow (e : Engine) (c : ToneId) :
    (e.ticks (max 1 (e.tone c).counter)).tone c =
      { e.tone c with counter := e.effPeriod c, output := !(e.tone c).output } := by
  have hlast : max 1 (e.tone c).counter = ((e.tone c).counter - 1) + 1 := by omega
  rw [hlast, Engine.ticks_succ, Engine.tick_tone, Engine.ticks_cfg, e.ticks_tone_of_le c le_rfl]
  rcases toneTick_cases e.cfg { e.tone c with counter := (e.tone c).counter - ((e.tone c).counter - 1) } with
    ⟨-, h⟩ | ⟨hgt, -⟩
  · rw [h]
    rfl
  · dsimp only at hgt
    omega

/-- An engine with the same count and output of a channel carries that count to its end (R113). -/
theorem Engine.countRunsOut_of_same {e e' : Engine} {c : ToneId} (hcounter : (e'.tone c).counter = (e.tone c).counter)
    (houtput : (e'.tone c).output = (e.tone c).output) : e.CountRunsOut c e' where
  before n hn := by
    rw [e'.ticks_tone_of_le c (by omega)]
    exact ⟨congrArg (· - n) hcounter, houtput⟩
  atUnderflow := by
    rw [← hcounter, e'.ticks_tone_underflow c]
    exact ⟨rfl, congrArg (!·) houtput⟩

/-! Every write on `MAIN` -/

/-- Settles O13: bit 7 tells a latch byte from a data byte; each completes, restarts the ready line, and sets or keeps the
latch pointer. -/
theorem mainWriteLatchesIndex : Obligations.MainWriteLatchesIndex := by
  intro b s e he
  have hne := decode_main_ne_stereo b
  refine ⟨fun hbit => (decode_main_of_latch hbit).trans (decodeLatch_eq_getD _ _), decode_main_of_data,
    e.after (decode .main b), step_write_main he b [], exec_main_next he hne, e.after_readyRestarted hne, ?_⟩
  cases hbit : b.getLsbD 7 with
  | true =>
    rw [decode_main_of_latch hbit]
    exact e.after_decodeLatch_lastLatched _ _
  | false =>
    rw [decode_main_of_data hbit]
    exact e.dataByte_lastLatched _

/-- Settles O14: an instruction that completes did what `Engine.after` says, which keeps the counters and the outputs. -/
theorem writesLeaveChannelStateAlone : Obligations.WritesLeaveChannelStateAlone := by
  intro i s t e he hexec
  obtain ⟨e₀, he₀, rfl⟩ := exec_next hexec
  obtain rfl : e₀ = e := Option.some.inj (he₀.symm.trans he)
  refine ⟨e₀.after i, rfl, e₀.after_cfg i, e₀.after_hostClockHz i, e₀.after_counter i, e₀.after_output i,
    e₀.after_noiseCounter i, e₀.after_lfsr i, ?_⟩
  rintro ⟨d, rfl⟩
  exact ⟨rfl, rfl⟩

end Machine

end Sys2Proof
end

section
/-! PROOFS. The latch rows by the class of their register, frequency, attenuation and noise control (spec
40_register_writes.md R91 to R99). -/

namespace Sys2Proof.Machine

/-! Frequency -/

theorem Engine.latchFreq_freqLatched (e : Engine) (c : ToneId) (d : BitVec 4) :
    Engine.FreqLatched c.periodIndex d e (e.latchFreq c d) where
  low := by rw [Engine.latchFreq_reg_periodIndex, latchPeriod_low]
  preserve h := by rw [Engine.latchFreq_reg_periodIndex, h, latchPeriod_preserve_high]
  zeroHigh h := by rw [Engine.latchFreq_reg_periodIndex, h, latchPeriod_zeroHigh_high]
  latched := e.latchFreq_lastLatched c d
  lfsr := by
    rw [← e.after_decodeLatch_periodIndex c d]
    exact e.after_decodeLatch_sameLfsr (by cases c <;> decide) d
  frame := e.latchFreq_mainWrite c d

/-- A latch byte to a period completes, and the count in progress runs out before the new period is used (R91, R113). -/
theorem exec_latch_period {s : State} {e : Engine} (he : s.engine = some e) (c : ToneId) (d : BitVec 4) :
    ∃ e', exec (decodeLatch c.periodIndex d) s = .next (s.withEngine e') ∧
      Engine.FreqLatched c.periodIndex d e e' ∧ e.CountRunsOut c e' := by
  have hlatched := e.latchFreq_freqLatched c d
  refine ⟨_, ?_, hlatched,
    Engine.countRunsOut_of_same (hlatched.frame.toneCounter c) (hlatched.frame.toneOut c)⟩
  rw [exec_decodeLatch he, Engine.after_decodeLatch_periodIndex]

/-- Settles O8: the latch byte of a period, for each of the three channels. -/
theorem frequencyLatchSetsLowBits : Obligations.FrequencyLatchSetsLowBits := fun d _ _ he =>
  ⟨⟨decode_main_or 0 d, exec_latch_period he .t0 d⟩, ⟨decode_main_or 2 d, exec_latch_period he .t1 d⟩,
    ⟨decode_main_or 4 d, exec_latch_period he .t2 d⟩⟩

/-! A data byte with no period to go to -/

theorem freqTarget_eq_none {r : BitVec 3} (hr : ¬ (r = 0 ∨ r = 2 ∨ r = 4)) : freqTarget r = none := by
  revert r
  decide

theorem Engine.dataByte_of_dataTarget_none {e : Engine} (ht : dataTarget e.lastLatched = none) (h : BitVec 6) :
    e.dataByte h = e.startWrite := by
  rw [Engine.dataByte, ht]

theorem Engine.dataByte_mainWrite_none {e : Engine} (ht : dataTarget e.lastLatched = none) (h : BitVec 6) :
    e.MainWrite none (e.dataByte h) := by
  refine Engine.after_mainWrite (i := .data 0 h) (fun _ => nofun) fun r _ => ?_
  change (e.dataByte h).reg r = e.reg r
  rw [Engine.dataByte_of_dataTarget_none ht, Engine.startWrite_reg]

theorem Engine.dataByte_sameLfsr (e : Engine) (h : BitVec 6) : e.SameLfsr (e.dataByte h) :=
  e.after_lfsr (.data 0 h) fun _ => nofun

/-- A data byte completes on a running engine (R100). -/
theorem exec_data {s : State} {e : Engine} (he : s.engine = some e) (x : BitVec 1) (h : BitVec 6) :
    exec (.data x h) s = .next (s.withEngine (e.dataByte h)) :=
  exec_main_next he fun _ => nofun

/-- A data byte after a latch byte to a register that is no period is discarded (R100). -/
theorem State.discardsData_of_latched (s : State) {e : Engine} {r : BitVec 3} (hl : e.lastLatched = some r)
    (hr : ¬ (r = 0 ∨ r = 2 ∨ r = 4)) : s.DiscardsData e := fun x h =>
  have ht : dataTarget e.lastLatched = none := hl ▸ freqTarget_eq_none hr
  ⟨e.dataByte h, exec_data rfl x h, Engine.dataByte_mainWrite_none ht h, e.dataByte_sameLfsr h,
    e.dataByte_lastLatched h⟩

/-- Settles O11: the byte goes to the period the last latch byte named, or to none. -/
theorem dataByteWritesHighBits : Obligations.DataByteWritesHighBits := by
  intro x h s e he
  refine ⟨decode_main_data_or x h, e.dataByte h, exec_data he x h, e.dataByte_lastLatched h, e.dataByte_sameLfsr h,
    fun r hl hr => ?_, fun hnone => ?_⟩
  · obtain ⟨c, rfl⟩ : ∃ c : ToneId, r = c.periodIndex := by
      rcases hr with rfl | rfl | rfl
      exacts [⟨.t0, rfl⟩, ⟨.t1, rfl⟩, ⟨.t2, rfl⟩]
    rw [Engine.dataByte_reg_periodIndex hl, dataPeriod_high, dataPeriod_low]
    exact ⟨rfl, rfl, Engine.dataByte_mainWrite hl h⟩
  · refine Engine.dataByte_mainWrite_none ?_ h
    cases hl : e.lastLatched with
    | none => rfl
    | some r => exact freqTarget_eq_none (hnone r hl)

/-! Attenuation -/

/-- The register index of a mixer input's attenuation (R20, R75). -/
def Channel.attIndex : Channel → BitVec 3
  | .tone0 => 1
  | .tone1 => 3
  | .tone2 => 5
  | .noise => 7

theorem Engine.reg_attIndex (e : Engine) (ch : Channel) : e.reg ch.attIndex = (e.att ch).setWidth 10 := by
  cases ch <;> rfl

/-- A latch byte to an attenuation stores its data bits as they are (R93, R99). -/
theorem Engine.after_decodeLatch_att (e : Engine) (ch : Channel) (d : BitVec 4) :
    (e.after (decodeLatch ch.attIndex d)).att ch = d := by
  cases ch <;> rfl

theorem Channel.attIndex_ne_six (ch : Channel) : ch.attIndex ≠ 6 := by
  cases ch <;> decide

/-- No attenuation register is a period (R75). -/
theorem Channel.attIndex_not_period (ch : Channel) :
    ¬ (ch.attIndex = 0 ∨ ch.attIndex = 2 ∨ ch.attIndex = 4) := by
  cases ch <;> decide

theorem Engine.attLatched_after (e : Engine) (ch : Channel) (d : BitVec 4) :
    Engine.AttLatched ch.attIndex d e (e.after (decodeLatch ch.attIndex d)) where
  stored := by rw [Engine.reg_attIndex, Engine.after_decodeLatch_att]
  latched := e.after_decodeLatch_lastLatched _ d
  lfsr := e.after_decodeLatch_sameLfsr ch.attIndex_ne_six d
  frame := e.after_decodeLatch_mainWrite _ d

/-- Code 15 silences a channel whatever its output is, when the table's last entry is 0 (R162). -/
theorem Engine.sig_of_att_fifteen {e : Engine} {ch : Channel} (htable : e.cfg.volumeTable[15] = 0)
    (hatt : e.att ch = 15) : e.sig ch = 0 := by
  have hvolume : volume e.cfg (e.att ch) = 0 := by rw [hatt]; exact htable
  rw [Engine.sig, hvolume, Int.mul_zero]

/-- A latch byte to an attenuation completes, a data byte after it is discarded, and code 15 silences the channel (R93,
R100, R162). -/
theorem exec_latch_att {s : State} {e : Engine} (he : s.engine = some e) (ch : Channel) (d : BitVec 4) :
    ∃ e', exec (decodeLatch ch.attIndex d) s = .next (s.withEngine e') ∧
      Engine.AttLatched ch.attIndex d e e' ∧ s.DiscardsData e' ∧
      (e.cfg.volumeTable[15] = 0 → d = 15 → e'.sig ch = 0) := by
  have hlatched := e.attLatched_after ch d
  refine ⟨_, exec_decodeLatch he _ d, hlatched,
    s.discardsData_of_latched hlatched.latched ch.attIndex_not_period, fun htable hd => ?_⟩
  exact Engine.sig_of_att_fifteen (by rw [hlatched.frame.cfg, htable]) ((e.after_decodeLatch_att ch d).trans hd)

/-- Settles O9: the latch byte of an attenuation, for each of the four mixer inputs. -/
theorem attenuationLatchStoresCode : Obligations.AttenuationLatchStoresCode := fun d _ _ he =>
  ⟨⟨decode_main_or 1 d, exec_latch_att he .tone0 d⟩, ⟨decode_main_or 3 d, exec_latch_att he .tone1 d⟩,
    ⟨decode_main_or 5 d, exec_latch_att he .tone2 d⟩, ⟨decode_main_or 7 d, exec_latch_att he .noise d⟩⟩

/-! Noise control -/

theorem noiseControlOf_eq_extractLsb' (d : BitVec 4) : noiseControlOf d = d.extractLsb' 0 3 :=
  BitVec.setWidth_eq_extractLsb' (by decide)

/-- Bit 3 of the noise control's data plays no part (R78, R98). -/
theorem exec_latchNctl_xor_eight (d : BitVec 4) (s : State) :
    exec (.latchNctl (d ^^^ 0b1000)) s = exec (.latchNctl d) s := by
  obtain ⟨-, hignored, -⟩ := ignoredBitsDoNothing
  have hlow : (d ^^^ 0b1000) &&& 0b0111 = d &&& 0b0111 := by
    revert d
    decide
  rw [hignored, hignored d, hlow]

/-- Settles O10: the latch byte to register 6 has the frame of every latch byte, and stores and reseeds. -/
theorem noiseControlLatchReseeds : Obligations.NoiseControlLatchReseeds := by
  intro d s e he
  have hlatched := e.after_decodeLatch_lastLatched 6 d
  refine ⟨decode_main_or 6 d, _, exec_decodeLatch he 6 d, ?_, rfl, rfl, hlatched, e.after_decodeLatch_mainWrite 6 d,
    s.discardsData_of_latched hlatched (by decide), exec_latchNctl_xor_eight d s⟩
  rw [← noiseControlOf_eq_extractLsb']
  rfl

end Sys2Proof.Machine
end

section
/-! PROOFS. The stereo byte: the mask alone, or the refusal by name (spec 40_register_writes.md R101). -/

namespace Sys2Proof.Machine

/-- On a variant without stereo the port does not exist (R101). -/
theorem exec_stereo_refused {s : State} {e : Engine} (he : s.engine = some e) (hst : e.cfg.hasStereo = false)
    (m : BitVec 8) : exec (.stereo m) s = .refused .stereoPortAbsent := by
  simp [exec, execStereo, he, hst]

/-- A side with no channel enabled sums to 0 (R166). -/
theorem sum_filter_of_disabled {enabled : Channel → Bool} (h : ∀ ch, enabled ch = false) (f : Channel → Int) :
    ((Channel.all.filter enabled).map f).sum = 0 := by
  rw [List.filter_eq_nil_iff.mpr fun ch _ => ne_true_of_eq_false (h ch)]
  rfl

/-- Settles O12: the mask is stored or the port is refused, and the mask 0 enables no channel. -/
theorem stereoByteWritesMask : Obligations.StereoByteWritesMask := by
  intro m s e he
  refine ⟨decode_stereo m, fun hst => exec_stereo he hst m, fun hst => exec_stereo_refused he hst m, ?_⟩
  rintro rfl
  exact ⟨sum_filter_of_disabled (fun _ => BitVec.getLsbD_zero) _,
    sum_filter_of_disabled (fun _ => BitVec.getLsbD_zero) _⟩

end Sys2Proof.Machine
end

section
/-! PROOFS. The tone channels: one tick, the square wave from a reload, and what the wave depends on (spec 41_tone.md
R110 to R118). -/

namespace Sys2Proof.Machine

/-! The effective period -/

theorem effPeriod_of_treatAsMaximum {policy : ZeroPeriodPolicy} {p : BitVec 10} (hp : p = 0)
    (h : policy = .treatAsMaximum) : effPeriod policy p = 1024 := by rw [hp, h, effPeriod_treatAsMaximum_zero]

theorem effPeriod_of_treatAsOne {policy : ZeroPeriodPolicy} {p : BitVec 10} (hp : p = 0)
    (h : policy = .treatAsOne) : effPeriod policy p = 1 := by rw [hp, h, effPeriod_treatAsOne_zero]

theorem Engine.effPeriod_pos (e : Engine) (c : ToneId) : 1 ≤ e.effPeriod c := Machine.effPeriod_pos _ _

/-- Ticks keep the effective period, since they write no register (R22). -/
@[simp] theorem Engine.ticks_effPeriod (e : Engine) (n : Nat) (c : ToneId) :
    (e.ticks n).effPeriod c = e.effPeriod c := by
  rw [Engine.effPeriod, Engine.effPeriod, Engine.ticks_cfg, Engine.ticks_period]

/-! One tick -/

/-- A tick reloads a period, which is positive, or counts down from more than 1 (R111). -/
theorem toneTick_counter_pos (c : Config) (t : ToneChannel) : 1 ≤ (toneTick c t).1.counter := by
  rcases toneTick_cases c t with ⟨-, h⟩ | ⟨hgt, h⟩ <;> rw [h]
  · exact effPeriod_pos _ _
  · exact Nat.le_sub_of_add_le hgt

/-- Without an underflow a tick keeps the output (R112). -/
theorem toneTick_output_of_lt {c : Config} {t : ToneChannel} (h : 1 < t.counter) :
    (toneTick c t).1.output = t.output := by
  rcases toneTick_cases c t with ⟨hle, -⟩ | ⟨-, ht⟩
  · omega
  · rw [ht]

/-- The attenuation plays no part in a tick (R118). -/
theorem toneTick_setAttenuation (c : Config) (t : ToneChannel) (a : BitVec 4) :
    (toneTick c { t with attenuation := a }).1 = { (toneTick c t).1 with attenuation := a } := by
  unfold toneTick
  split <;> rfl

/-- Settles O17: the tick of the channel by the two cases of its count, the reload by the period and the policy, and the
next count by the rule of a count in progress. -/
theorem toneTickCountsOrReloads : Obligations.ToneTickCountsOrReloads := by
  intro s e c he hd
  refine ⟨e.tick, step_tick_of_due_nil he hd, ?_, Engine.countRunsOut_of_same rfl rfl, e.tick_reg, rfl, rfl⟩
  rw [Engine.tick_tone]
  rcases toneTick_cases e.cfg (e.tone c) with ⟨hle, h⟩ | ⟨hgt, h⟩ <;> rw [h]
  · have hn : ((e.tone c).counter : Int) - 1 ≤ 0 := by omega
    exact ⟨fun _ => ⟨rfl, effPeriod_of_ne_zero _, effPeriod_of_treatAsMaximum, effPeriod_of_treatAsOne⟩,
      fun hnot => absurd hn hnot, (decide_eq_true hn).symm⟩
  · have hn : ¬ ((e.tone c).counter : Int) - 1 ≤ 0 := by omega
    exact ⟨fun hle => absurd hle hn, fun _ => ⟨Int.ofNat_sub hgt.le, rfl⟩, (decide_eq_false hn).symm⟩

/-- Settles O20: a reload and a count down both stay within the range. -/
theorem toneCounterRange : Obligations.ToneCounterRange := by
  intro e c h
  rw [Engine.tick_tone]
  exact ⟨toneTick_counter_pos _ _, toneTick_counter_le _ h⟩

/-! The square wave -/

/-- From a reload each effective period of ticks is one half wave, which ends in a reload (R115). -/
theorem Engine.ticks_tone_halfWaves {e : Engine} {c : ToneId} (h : (e.tone c).counter = e.effPeriod c) (q : Nat) :
    (e.ticks (e.effPeriod c * q)).tone c =
      { e.tone c with output := (e.tone c).output ^^ decide (q % 2 = 1) } := by
  induction q with
  | zero => simp
  | succ q ih =>
    have hcount : max 1 ((e.ticks (e.effPeriod c * q)).tone c).counter = e.effPeriod c := by
      rw [ih]
      exact (congrArg (max 1) h).trans (max_eq_right (e.effPeriod_pos c))
    have hunderflow := (e.ticks (e.effPeriod c * q)).ticks_tone_underflow c
    rw [hcount, Engine.ticks_effPeriod, ih] at hunderflow
    have hflip : (!((e.tone c).output ^^ decide (q % 2 = 1))) = ((e.tone c).output ^^ decide ((q + 1) % 2 = 1)) := by
      rw [← Bool.xor_not, ← decide_not]
      exact congrArg _ (decide_eq_decide.mpr (by omega))
    rw [Nat.mul_succ, Engine.ticks_add, hunderflow, ← h]
    exact congrArg (fun o => { e.tone c with output := o }) hflip

/-- From a reload a channel has flipped once for each effective period, and the rest of the ticks have counted down
(R115). -/
theorem Engine.ticks_tone_of_reload {e : Engine} {c : ToneId} (h : (e.tone c).counter = e.effPeriod c) (n : Nat) :
    (e.ticks n).tone c =
      { e.tone c with
        counter := e.effPeriod c - n % e.effPeriod c
        output := (e.tone c).output ^^ decide (n / e.effPeriod c % 2 = 1) } := by
  have hhalf := Engine.ticks_tone_halfWaves h (n / e.effPeriod c)
  have hrest : n % e.effPeriod c < e.effPeriod c := Nat.mod_lt n (e.effPeriod_pos c)
  have hcount : ((e.ticks (e.effPeriod c * (n / e.effPeriod c))).tone c).counter = e.effPeriod c := by rw [hhalf, ← h]
  conv_lhs => rw [← Nat.div_add_mod n (e.effPeriod c)]
  rw [Engine.ticks_add, Engine.ticks_tone_of_le _ c (by omega), hcount, hhalf]

/-- The wave's frequency times its length in ticks is the tick rate (R115, R200). -/
theorem Engine.toneFrequencyHz_mul (e : Engine) (c : ToneId) :
    e.toneFrequencyHz c * ((2 * e.effPeriod c : Nat) : Rat) = e.tickRateHz := by
  have hpos : ((2 * e.effPeriod c : Nat) : Rat) ≠ 0 := by
    have := e.effPeriod_pos c
    exact_mod_cast (by omega : 2 * e.effPeriod c ≠ 0)
  rw [Engine.toneFrequencyHz, Engine.tickRateHz, Nat.mul_assoc, Nat.cast_mul, ← div_div, div_mul_cancel₀ _ hpos]

/-- Settles O18: the channel after any number of ticks from a reload, one whole wave, the period by the policy, and the
frequency. -/
theorem toneFrequencyLaw : Obligations.ToneFrequencyLaw := by
  intro e c h
  refine ⟨fun n => ?_, fun n => ?_, ?_, effPeriod_of_ne_zero _, effPeriod_of_treatAsMaximum, effPeriod_of_treatAsOne,
    fun _ => e.toneFrequencyHz_mul c⟩
  · rw [Engine.ticks_tone_of_reload h]
  · rw [Engine.ticks_tone_of_reload h]
  · rw [Nat.mul_comm, Engine.ticks_tone_halfWaves h]
    simp

/-! What the wave depends on -/

/-- Settles O19: an instruction keeps the count and the output of every channel, so the count runs out. -/
theorem periodWriteWaitsForUnderflow : Obligations.PeriodWriteWaitsForUnderflow := by
  intro i s t e e' c he hexec he'
  obtain ⟨e₀, he₀, rfl⟩ := exec_next hexec
  obtain rfl : e₀ = e := Option.some.inj (he₀.symm.trans he)
  obtain rfl : e₀.after i = e' := Option.some.inj he'
  exact Engine.countRunsOut_of_same (e₀.after_counter i c) (e₀.after_output i c)

/-- Engines of one configuration whose channels differ at most in the attenuation stay so (R114, R118). -/
theorem Engine.ticks_tone_setAttenuation {e f : Engine} {c : ToneId} {a : BitVec 4} (hcfg : f.cfg = e.cfg)
    (h : f.tone c = { e.tone c with attenuation := a }) (n : Nat) :
    (f.ticks n).tone c = { (e.ticks n).tone c with attenuation := a } := by
  induction n with
  | zero => exact h
  | succ n ih =>
    rw [Engine.ticks_succ, Engine.ticks_succ, Engine.tick_tone, Engine.tick_tone, Engine.ticks_cfg, Engine.ticks_cfg,
      hcfg, ih, toneTick_setAttenuation]

/-- Settles O21: the channels differ at most in the attenuation, which no tick reads. -/
theorem toneChannelsAreIndependent : Obligations.ToneChannelsAreIndependent := by
  intro e f c n hcfg hperiod hcounter houtput
  have h : f.tone c = { e.tone c with attenuation := (f.tone c).attenuation } := by
    dsimp only
    rw [← hperiod, ← hcounter, ← houtput]
  rw [Engine.ticks_tone_setAttenuation hcfg h n]
  exact ⟨rfl, rfl, rfl⟩

/-- Settles O22: of the operations a step can carry out, a write keeps every output, a tick without an underflow keeps
the channel's, and what is neither, a reset nor a `construct` keeps the engine. -/
theorem toneOutputChangesOnUnderflow : Obligations.ToneOutputChangesOnUnderflow := by
  intro s t e e' c he hstep he' hne
  rcases step_engine he hstep with ⟨p, b, -, ht, -⟩ | ⟨hop, ht⟩ | ⟨hop, -⟩ | ⟨a, hz, hop, -⟩ | ⟨ht, -⟩
  · obtain rfl : e.after (decode p b) = e' := Option.some.inj (ht.symm.trans he')
    exact absurd (e.after_output _ c) hne
  · obtain rfl : e.tick = e' := Option.some.inj (ht.symm.trans he')
    rw [Engine.tick_tone] at hne
    exact .inl ⟨hop, Nat.le_of_not_lt fun hgt => hne (toneTick_output_of_lt hgt)⟩
  · exact .inr (.inl hop)
  · exact .inr (.inr ⟨a, hz, hop⟩)
  · obtain rfl : e = e' := Option.some.inj (ht.symm.trans he')
    exact absurd rfl hne

end Sys2Proof.Machine
end

section
/-! PROOFS. The shift register: one shift, the shifts at rate 3, and what can change it (spec 42_noise.md R132 to
R136). -/

namespace Sys2Proof.Machine

/-! One shift -/

theorem feedback_of_white {c : Config} {n : NoiseChannel} (h : noiseWhite n.control = true) :
    feedback c n = (n.lfsr.testBit c.tap1 ^^ n.lfsr.testBit c.tap2) := if_pos h

theorem feedback_of_periodic {c : Config} {n : NoiseChannel} (h : noiseWhite n.control = false) :
    feedback c n = n.lfsr.testBit c.tap1 := if_neg (ne_true_of_eq_false h)

/-- Settles O23: the bits of the shifted register, with the feedback bit written out, and its width. -/
theorem noiseShiftMovesBits : Obligations.NoiseShiftMovesBits := fun c n h =>
  ⟨noiseShift_testBit c n h, noiseShift_lt c n h, noiseShift_output c n, noiseShift_counter c n,
    noiseShift_control c n, noiseShift_attenuation c n⟩

/-! Rate 3 -/

/-- A tone output flips on an underflow and on no other tick (R111). -/
theorem toneTick_output_ne_iff (c : Config) (t : ToneChannel) :
    (toneTick c t).1.output ≠ t.output ↔ t.counter ≤ 1 := by
  rcases toneTick_cases c t with ⟨hle, h⟩ | ⟨hgt, h⟩ <;> rw [h]
  · exact iff_of_true (Bool.not_ne_self _) hle
  · exact iff_of_false (not_not_intro rfl) (Nat.not_le.mpr hgt)

/-- At rate 3 a tick shifts on tone 2's underflow and otherwise leaves the noise channel (R136). -/
theorem Engine.ticks_succ_noise_of_rate_three {e : Engine} (h : (noiseRate e.noise.control).toNat = 3) (n : Nat) :
    (e.ticks (n + 1)).noise =
      if ((e.ticks n).tone .t2).counter ≤ 1 then noiseShift e.cfg (e.ticks n).noise else (e.ticks n).noise := by
  have hrate : (noiseRate (e.ticks n).noise.control).toNat = 3 := by rw [Engine.ticks_control, h]
  rw [Engine.ticks_succ, Engine.tick_noise, noiseTick_of_rate_three hrate, toneTick_underflow, Engine.ticks_cfg]
  simp only [decide_eq_true_eq]

theorem Engine.ticks_noiseCounter_of_rate_three {e : Engine} (h : (noiseRate e.noise.control).toNat = 3) (n : Nat) :
    (e.ticks n).noise.counter = e.noise.counter := by
  induction n with
  | zero => rfl
  | succ n ih =>
    rw [Engine.ticks_succ_noise_of_rate_three h, ← ih]
    split <;> rfl

/-- From a reload of tone 2 the register has shifted once for each effective period (R136). -/
theorem Engine.ticks_noise_of_rate_three {e : Engine} (h : (noiseRate e.noise.control).toNat = 3)
    (hreload : (e.tone .t2).counter = e.effPeriod .t2) (n : Nat) :
    (e.ticks n).noise = (noiseShift e.cfg)^[n / e.effPeriod .t2] e.noise := by
  induction n with
  | zero => rw [Nat.zero_div]; rfl
  | succ n ih =>
    have hcount : ((e.ticks n).tone .t2).counter = e.effPeriod .t2 - n % e.effPeriod .t2 := by
      rw [Engine.ticks_tone_of_reload hreload]
    have hlt : n % e.effPeriod .t2 < e.effPeriod .t2 := Nat.mod_lt n (e.effPeriod_pos .t2)
    rw [Engine.ticks_succ_noise_of_rate_three h, hcount, ih]
    split
    · obtain ⟨hq, -⟩ := div_mod_succ_of_last (by omega : n % e.effPeriod .t2 + 1 = e.effPeriod .t2)
      rw [hq, Function.iterate_succ_apply']
    · obtain ⟨hq, -⟩ := div_mod_succ_of_lt (by omega : n % e.effPeriod .t2 + 1 < e.effPeriod .t2)
      rw [hq]

/-- Settles O26: one tick at rate 3, after any number of them, and the shifts counted from a reload of tone 2. -/
theorem rateThreeFollowsToneTwo : Obligations.RateThreeFollowsToneTwo := by
  intro e h
  refine ⟨fun n => ⟨?_, fun hle => ?_, fun hgt => ?_, Engine.ticks_noiseCounter_of_rate_three h n⟩,
    Engine.ticks_noise_of_rate_three h⟩
  · rw [Engine.ticks_succ, Engine.tick_tone]
    exact toneTick_output_ne_iff _ _
  · rw [Engine.ticks_succ_noise_of_rate_three h, if_pos hle]
  · rw [Engine.ticks_succ_noise_of_rate_three h, if_neg hgt]

/-! What can change the register -/

/-- Two noise channels with the same fields are the same channel. -/
theorem NoiseChannel.eq_of_fields {n m : NoiseChannel} (hcontrol : n.control = m.control)
    (hattenuation : n.attenuation = m.attenuation) (hcounter : n.counter = m.counter) (hlfsr : n.lfsr = m.lfsr)
    (houtput : n.output = m.output) : n = m := by
  cases n
  cases m
  simp_all

/-- A noise tick writes the counter, and shifts the register once or leaves it (R134 to R136). -/
theorem noiseTick_shift_or_same (c : Config) (u : Bool) (n : NoiseChannel) :
    (∃ k, noiseTick c u n = { noiseShift c n with counter := k }) ∨
      ((noiseTick c u n).lfsr = n.lfsr ∧ (noiseTick c u n).output = n.output) := by
  refine (noiseTick_lfsr_cases c u n).imp_left fun ⟨hl, ho⟩ => ⟨(noiseTick c u n).counter, ?_⟩
  exact NoiseChannel.eq_of_fields (noiseTick_control c u n) (noiseTick_attenuation c u n) rfl hl ho

/-- Only a byte on `MAIN` decodes to the noise control (R98). -/
theorem port_of_decode_latchNctl {p : Port} {b : Byte} {d : BitVec 4} (h : decode p b = .latchNctl d) :
    p = .main := by
  cases p
  · rfl
  · cases h

/-- Settles O27: of the operations a step can carry out, a write but the noise control keeps the register, a tick shifts
or keeps it, and what is neither, a reset nor a `construct` keeps the engine. -/
theorem noiseOutputChangesByShiftOrReseed : Obligations.NoiseOutputChangesByShiftOrReseed := by
  intro s t e e' he hstep he' hne
  rcases step_engine he hstep with ⟨p, b, hop, ht, -⟩ | ⟨hop, ht⟩ | ⟨hop, -⟩ | ⟨a, hz, hop, -⟩ | ⟨ht, -⟩
  · obtain rfl : e.after (decode p b) = e' := Option.some.inj (ht.symm.trans he')
    obtain ⟨d, hd⟩ : ∃ d, decode p b = .latchNctl d := by
      by_contra hno
      exact hne (e.after_lfsr _ fun d hd => hno ⟨d, hd⟩)
    obtain rfl := port_of_decode_latchNctl hd
    exact .inr (.inl ⟨b, d, hop, hd⟩)
  · obtain rfl : e.tick = e' := Option.some.inj (ht.symm.trans he')
    exact .inl ⟨hop, (noiseTick_shift_or_same _ _ _).resolve_right hne⟩
  · exact .inr (.inr (.inl hop))
  · exact .inr (.inr (.inr ⟨a, hz, hop⟩))
  · obtain rfl : e = e' := Option.some.inj (ht.symm.trans he')
    exact absurd ⟨rfl, rfl⟩ hne

end Sys2Proof.Machine
end

section
/-! PROOFS. The special cases of the shift register: the zero register, rotation, and equal taps (spec 42_noise.md
R138). -/

namespace Sys2Proof.Machine

/-! The zero register -/

/-- The register and the output are 0 (R138). -/
def NoiseChannel.Zero (n : NoiseChannel) : Prop := n.lfsr = 0 ∧ n.output = false

/-- Every tap of a zero register is 0, in both modes. -/
theorem feedback_of_lfsr_zero {c : Config} {n : NoiseChannel} (h : n.lfsr = 0) : feedback c n = false := by
  cases hmode : noiseWhite n.control with
  | true => simp [feedback_of_white hmode, h]
  | false => simp [feedback_of_periodic hmode, h]

/-- A shift that feeds back 0 moves the register down by one bit. -/
theorem noiseShift_lfsr_of_feedback_false {c : Config} {n : NoiseChannel} (h : feedback c n = false) :
    (noiseShift c n).lfsr = n.lfsr >>> 1 := by
  simp [noiseShift, h]

theorem noiseShift_lfsr_of_lfsr_zero {c : Config} {n : NoiseChannel} (h : n.lfsr = 0) :
    (noiseShift c n).lfsr = 0 := by
  rw [noiseShift_lfsr_of_feedback_false (feedback_of_lfsr_zero h), h, Nat.zero_shiftRight]

theorem NoiseChannel.Zero.noiseTick {n : NoiseChannel} (h : n.Zero) (c : Config) (u : Bool) :
    (noiseTick c u n).Zero := by
  have ⟨hlfsr, houtput⟩ := h
  rcases noiseTick_lfsr_cases c u n with ⟨hl, ho⟩ | ⟨hl, ho⟩
  · have hshift := noiseShift_lfsr_of_lfsr_zero (c := c) hlfsr
    exact ⟨hl.trans hshift, by rw [ho, noiseShift_output, hshift, Nat.zero_testBit]⟩
  · exact ⟨hl.trans hlfsr, ho.trans houtput⟩

theorem Engine.ticks_noise_zero {e : Engine} (h : e.noise.Zero) (n : Nat) : (e.ticks n).noise.Zero := by
  induction n with
  | zero => exact h
  | succ n ih =>
    rw [Engine.ticks_succ]
    exact ih.noiseTick _ _

/-- A reseed with `LFSR_RESET = 0` gives the zero register (R137). -/
theorem noiseReseed_zero {c : Config} (hreset : c.lfsrReset = 0) (n : NoiseChannel) : (noiseReseed c n).Zero :=
  ⟨hreset, by simp [noiseReseed, hreset]⟩

/-- A write leaves the register, or reseeds it. -/
theorem Engine.after_noise_zero {e : Engine} (hreset : e.cfg.lfsrReset = 0) (h : e.noise.Zero) (i : Instr) :
    (e.after i).noise.Zero := by
  by_cases hi : ∃ d, i = .latchNctl d
  · obtain ⟨d, rfl⟩ := hi
    exact noiseReseed_zero hreset _
  · have ⟨hl, ho⟩ := e.after_lfsr i fun d hd => hi ⟨d, hd⟩
    have ⟨hlfsr, houtput⟩ := h
    exact ⟨hl.trans hlfsr, ho.trans houtput⟩

/-- Settles O28: a tick shifts the zero register to itself; a reseed and a reset give it again when `LFSR_RESET` is 0. -/
theorem zeroRegisterStaysZero : Obligations.ZeroRegisterStaysZero := by
  refine ⟨fun e hl ho n => Engine.ticks_noise_zero ⟨hl, ho⟩ n,
    fun s t e he hreset hl ho hstep hconstruct => ?_⟩
  have hzero : e.noise.Zero := ⟨hl, ho⟩
  rcases step_engine he hstep with ⟨p, b, -, ht, -⟩ | ⟨-, ht⟩ | ⟨-, ht⟩ | ⟨a, hz, hop, -⟩ | ⟨ht, -⟩
  · exact ⟨_, ht, by rw [Engine.after_cfg, hreset], Engine.after_noise_zero hreset hzero _⟩
  · exact ⟨_, ht, hreset, hzero.noiseTick _ _⟩
  · exact ⟨_, ht, hreset, noiseReseed_zero hreset (NoiseChannel.reset e.cfg)⟩
  · exact absurd hop (hconstruct a hz)
  · exact ⟨e, ht, hreset, hzero⟩

/-! Rotation -/

/-- Numbers of `w` bits with the same bits are the same. -/
theorem eq_of_testBit_eq_of_lt {a b w : Nat} (ha : a < 2 ^ w) (hb : b < 2 ^ w)
    (h : ∀ i, i < w → a.testBit i = b.testBit i) : a = b := by
  refine Nat.eq_of_testBit_eq fun i => ?_
  rcases Nat.lt_or_ge i w with hi | hi
  · exact h i hi
  · have hpow : 2 ^ w ≤ 2 ^ i := Nat.pow_le_pow_right (by decide) hi
    rw [Nat.testBit_lt_two_pow (ha.trans_le hpow), Nat.testBit_lt_two_pow (hb.trans_le hpow)]

/-- In periodic mode with `TAP1 = 0` bit 0 comes back as bit `H`, so that one shift rotates the register (R138). -/
theorem noiseShift_testBit_rotate {c : Config} {n : NoiseChannel} (htap : c.tap1 = 0)
    (hmode : noiseWhite n.control = false) (h : n.lfsr < 2 ^ c.width) {i : Nat} (hi : i < c.width) :
    (noiseShift c n).lfsr.testBit i = n.lfsr.testBit ((i + 1) % c.width) := by
  rw [noiseShift_testBit c n h]
  split
  case isTrue htop =>
    have hround : (i + 1) % c.width = 0 := by rw [htop]; exact Nat.mod_self c.width
    rw [feedback_of_periodic hmode, htap, hround]
  case isFalse hlow =>
    have hnext : i + 1 < c.width := Nat.lt_of_le_of_ne hi fun hw => hlow (Nat.succ.inj hw)
    rw [Nat.mod_eq_of_lt hnext]

theorem noiseShift_iterate_testBit_rotate {c : Config} {n : NoiseChannel} (htap : c.tap1 = 0)
    (hmode : noiseWhite n.control = false) (h : n.lfsr < 2 ^ c.width) (k : Nat) {i : Nat} (hi : i < c.width) :
    ((noiseShift c)^[k] n).lfsr.testBit i = n.lfsr.testBit ((i + k) % c.width) := by
  induction k generalizing i with
  | zero => rw [Nat.add_zero, Nat.mod_eq_of_lt hi]; rfl
  | succ k ih =>
    have hmode' : noiseWhite ((noiseShift c)^[k] n).control = false := by rw [noiseShift_iterate_control, hmode]
    rw [Function.iterate_succ_apply',
      noiseShift_testBit_rotate htap hmode' (noiseShift_iterate_lt c n h k) hi,
      ih (Nat.mod_lt _ (Nat.zero_lt_of_lt hi)), Nat.mod_add_mod, Nat.add_assoc, Nat.add_comm 1 k]

/-- All ones rotate to all ones. -/
theorem noiseShift_lfsr_of_all_ones {c : Config} {n : NoiseChannel} (htap : c.tap1 = 0)
    (hmode : noiseWhite n.control = false) (hones : n.lfsr = 2 ^ c.width - 1) :
    (noiseShift c n).lfsr = n.lfsr := by
  have h : n.lfsr < 2 ^ c.width := hones ▸ Nat.sub_one_lt_of_lt (Nat.two_pow_pos c.width)
  refine eq_of_testBit_eq_of_lt (noiseShift_lt c n h) h fun i hi => ?_
  have hnext : (i + 1) % c.width < c.width := Nat.mod_lt _ (Nat.zero_lt_of_lt hi)
  rw [noiseShift_testBit_rotate htap hmode h hi, hones, Nat.testBit_two_pow_sub_one, Nat.testBit_two_pow_sub_one,
    decide_eq_true hi, decide_eq_true hnext]

/-- Settles O29: bit by bit each shift rotates, `W` shifts are a whole turn, and all ones stay. -/
theorem periodicTapZeroRotates : Obligations.PeriodicTapZeroRotates := by
  intro c n htap hmode h
  have hrotate := fun k i => noiseShift_iterate_testBit_rotate htap hmode h k (i := i)
  refine ⟨hrotate, ?_, fun hones => ?_⟩
  · refine eq_of_testBit_eq_of_lt (noiseShift_iterate_lt c n h _) h fun i hi => ?_
    rw [hrotate _ i hi, Nat.add_mod_right, Nat.mod_eq_of_lt hi]
  · have hlfsr := noiseShift_lfsr_of_all_ones htap hmode hones
    refine ⟨hlfsr, ?_⟩
    rw [noiseShift_output, hlfsr, hones, Nat.testBit_two_pow_sub_one]
    exact decide_eq_true (Nat.succ_pos c.highBit)

/-! Draining -/

/-- In white mode with equal taps nothing is fed back, so that every shift moves the register down (R138). -/
theorem noiseShift_iterate_lfsr_of_tap1_eq_tap2 {c : Config} {n : NoiseChannel} (htap : c.tap1 = c.tap2)
    (hmode : noiseWhite n.control = true) (k : Nat) : ((noiseShift c)^[k] n).lfsr = n.lfsr >>> k := by
  induction k with
  | zero => rfl
  | succ k ih =>
    have hmode' : noiseWhite ((noiseShift c)^[k] n).control = true := by rw [noiseShift_iterate_control, hmode]
    have hfeedback : feedback c ((noiseShift c)^[k] n) = false := by
      rw [feedback_of_white hmode', htap, Bool.xor_self]
    rw [Function.iterate_succ_apply', noiseShift_lfsr_of_feedback_false hfeedback, ih, ← Nat.shiftRight_add]

/-- Settles O30: `k` shifts move the register down by `k` bits, and it has no bit at `W` or above. -/
theorem whiteEqualTapsDrain : Obligations.WhiteEqualTapsDrain := by
  intro c n htap hmode h k hk
  rw [noiseShift_iterate_lfsr_of_tap1_eq_tap2 htap hmode]
  exact Nat.shiftRight_eq_zero _ _ (h.trans_le (Nat.pow_le_pow_right (by decide) hk))

end Sys2Proof.Machine
end

section
/-! PROOFS. The mixer: what its answers depend on, the sums written out, and their bound (spec 43_mixer.md R162 to
R170). -/

namespace Sys2Proof.Machine

/-! What the answers depend on -/

theorem sig_congr {e f : Engine} {ch : Channel} (hcfg : f.cfg = e.cfg) (hout : f.out ch = e.out ch)
    (hatt : f.att ch = e.att ch) : f.sig ch = e.sig ch := by
  simp only [Engine.sig, hcfg, hout, hatt]

/-- Settles O31: the silent channel's signal is 0 in both engines, and the other signals read the same fields. -/
theorem silentChannelContributesNothing : Obligations.SilentChannelContributesNothing := by
  intro e ch htable hatt
  have hsilent := Engine.sig_of_att_fifteen htable hatt
  refine ⟨hsilent, fun f hcfg hmask hatts houts => mixFor_congr hcfg hmask fun ch' => ?_⟩
  by_cases hch : ch' = ch
  · subst hch
    rw [hsilent, Engine.sig_of_att_fifteen (by rw [hcfg, htable]) ((hatts ch').trans hatt)]
  · exact sig_congr hcfg (houts ch' hch) (hatts ch')

/-- Settles O33: engines that agree on the mixer's inputs have the same signals. -/
theorem mixReadsOnlyItsInputs : Obligations.MixReadsOnlyItsInputs := fun _ _ h =>
  mixFor_congr h.cfg h.mask fun ch => sig_congr h.cfg (h.out ch) (h.att ch)

/-! The bound -/

theorem abs_polarity (negate bit : Bool) : |polarity negate bit| = 1 := by
  cases negate <;> cases bit <;> rfl

/-- A signal is a table entry up to its sign (R164). -/
theorem Engine.abs_sig (e : Engine) (ch : Channel) : |e.sig ch| = |volume e.cfg (e.att ch)| := by
  rw [Engine.sig, abs_mul, abs_polarity, one_mul]

/-- A sum over channels is bounded by their number times a bound of each term. -/
theorem abs_sum_map_le {f : Channel → Int} {m : Int} (h : ∀ ch, |f ch| ≤ m) (l : List Channel) :
    |(l.map f).sum| ≤ l.length * m := by
  induction l with
  | nil => simp
  | cons ch l ih =>
    calc |((ch :: l).map f).sum| = |f ch + (l.map f).sum| := by rw [List.map_cons, List.sum_cons]
      _ ≤ |f ch| + |(l.map f).sum| := abs_add_le _ _
      _ ≤ m + l.length * m := add_le_add (h ch) ih
      _ = (ch :: l).length * m := by push_cast [List.length_cons]; ring

/-- The sum over the channels of one side is bounded by four terms. -/
theorem abs_sum_filter_le {f : Channel → Int} {m : Int} (h : ∀ ch, |f ch| ≤ m) (enabled : Channel → Bool) :
    |((Channel.all.filter enabled).map f).sum| ≤ 4 * m := by
  have hlength : (Channel.all.filter enabled).length ≤ 4 := List.length_filter_le _ _
  have hm : 0 ≤ m := (abs_nonneg _).trans (h .noise)
  exact (abs_sum_map_le h _).trans (mul_le_mul_of_nonneg_right (by exact_mod_cast hlength) hm)

/-- Settles O34: every signal is bounded by the table, and each sum has at most four of them. -/
theorem mixIsBounded : Obligations.MixIsBounded := by
  intro e m h
  have hsig : ∀ ch, |e.sig ch| ≤ m := fun ch => (e.abs_sig ch).trans_le (h _)
  exact ⟨abs_sum_map_le hsig Channel.all, abs_sum_filter_le hsig _, abs_sum_filter_le hsig _⟩

/-! The answer to a request -/

theorem step_mix_of_ok {s : State} {e : Engine} {request : MixRequest} {v : Sample} (he : s.engine = some e)
    (h : e.mixFor request = .ok v) (ops : List HostOp) :
    step (s.pushInputs (.mix request :: ops)) = .next ((s.pushInputs ops).answer (.sample v)) := by
  simp [runHostOp, hostMix, he, h]

theorem step_mix_of_error {s : State} {e : Engine} {request : MixRequest} {r : Refusal} (he : s.engine = some e)
    (h : e.mixFor request = .error r) (ops : List HostOp) :
    step (s.pushInputs (.mix request :: ops)) = .refused r := by
  simp [runHostOp, hostMix, he, h]

/-- A variant without stereo answers its one sum, twice when a pair is asked for (R165, R167). -/
theorem mixFor_of_not_hasStereo {e : Engine} (hst : e.cfg.hasStereo = false) (request : MixRequest) :
    e.mixFor request = .ok (if request = .stereo then .pair e.mono e.mono else .mono e.mono) := by
  cases request <;> simp [Engine.mixFor, Engine.mix, hst]

/-- A stereo variant answers its pair and refuses mono alone (R166, R168). -/
theorem mixFor_of_hasStereo {e : Engine} (hst : e.cfg.hasStereo = true) (request : MixRequest) :
    e.mixFor request =
      if request = .mono then .error .monoFromStereoVariant else .ok (.pair e.left e.right) := by
  cases request <;> simp [Engine.mixFor, Engine.mix, hst]

theorem sum_map_all (f : Channel → Int) :
    (Channel.all.map f).sum = f .tone0 + f .tone1 + f .tone2 + f .noise := by
  simp [Channel.all, add_assoc]

theorem Engine.mono_eq (e : Engine) : e.mono = e.sig .tone0 + e.sig .tone1 + e.sig .tone2 + e.sig .noise :=
  sum_map_all _

/-- A side is the sum of four terms, each the signal or 0 (R166). -/
theorem Engine.left_eq (e : Engine) :
    e.left = (if e.stereoMask.getLsbD 4 then e.sig .tone0 else 0) +
      (if e.stereoMask.getLsbD 5 then e.sig .tone1 else 0) +
      (if e.stereoMask.getLsbD 6 then e.sig .tone2 else 0) +
      (if e.stereoMask.getLsbD 7 then e.sig .noise else 0) :=
  (sum_filter_eq _ _ _).trans (sum_map_all _)

theorem Engine.right_eq (e : Engine) :
    e.right = (if e.stereoMask.getLsbD 0 then e.sig .tone0 else 0) +
      (if e.stereoMask.getLsbD 1 then e.sig .tone1 else 0) +
      (if e.stereoMask.getLsbD 2 then e.sig .tone2 else 0) +
      (if e.stereoMask.getLsbD 3 then e.sig .noise else 0) :=
  (sum_filter_eq _ _ _).trans (sum_map_all _)

/-- Settles O32: the sums of the obligation are the mixer's, and each request has its answer. -/
theorem mixAnswersRequest : Obligations.MixAnswersRequest := by
  intro s e he
  simp only [← polarity_eq]
  refine ⟨fun hst => ?_, fun hst => ?_⟩
  · have hmono := e.mono_eq.symm
    simp only [Engine.sig, Engine.out, Engine.att] at hmono
    rw [hmono]
    have hanswer := fun request => step_mix_of_ok he (mixFor_of_not_hasStereo hst request) []
    exact ⟨hanswer .native, hanswer .mono, hanswer .stereo⟩
  · have hleft := e.left_eq.symm
    have hright := e.right_eq.symm
    simp only [Engine.sig, Engine.out, Engine.att] at hleft hright
    rw [hleft, hright]
    have hanswer := mixFor_of_hasStereo hst
    exact ⟨step_mix_of_ok he (hanswer .native) [], step_mix_of_ok he (hanswer .stereo) [],
      step_mix_of_error he (hanswer .mono) []⟩

end Sys2Proof.Machine
end

section
/-! PROOFS. The sample loop: one sample is its ticks and a `mix`, and the ticks of the samples add up without drift (spec
43_mixer.md R171, R172). -/

namespace Sys2Proof.Machine

/-! Running to a state -/

/-- Some number of steps leads from `s` to `t`. -/
def State.Reaches (s t : State) : Prop := ∃ k, Host.Core.run Sys2Proof.core k s = .next t

theorem State.Reaches.refl (s : State) : s.Reaches s := ⟨0, run_zero s⟩

theorem State.Reaches.trans {s t u : State} (h₁ : s.Reaches t) (h₂ : t.Reaches u) : s.Reaches u := by
  obtain ⟨j, hj⟩ := h₁
  obtain ⟨k, hk⟩ := h₂
  exact ⟨j + k, (run_add hj k).trans hk⟩

theorem reaches_of_step {s t : State} (h : step s = .next t) : s.Reaches t := ⟨1, run_of_next h 0⟩

theorem step_tick_cons {s : State} {e : Engine} (he : s.engine = some e) (hd : s.host.due = []) (ops : List HostOp) :
    step (s.pushInputs (.tick :: ops)) = .next ((s.withEngine e.tick).pushInputs ops) :=
  step_tick_of_due_nil (s := s.pushInputs ops) he hd

/-- With no held write, ticks that are next to be issued all run (R190). -/
theorem reaches_ticks {s : State} {e : Engine} (he : s.engine = some e) (hd : s.host.due = []) (n : Nat)
    (ops : List HostOp) :
    (s.pushInputs (List.replicate n .tick ++ ops)).Reaches ((s.withEngine (e.ticks n)).pushInputs ops) := by
  induction n generalizing s e with
  | zero =>
    rw [Engine.ticks_zero, State.withEngine_self he]
    exact .refl _
  | succ n ih =>
    rw [List.replicate_succ, List.cons_append]
    exact (reaches_of_step (step_tick_cons he hd _)).trans (ih rfl hd)

/-! One sample -/

theorem step_generate_zero {s : State} {e : Engine} {rate : Nat} (he : s.engine = some e) (hrate : 1 ≤ rate)
    (request : MixRequest) : step (s.pushInputs [.generate 0 rate request]) = .next s := by
  simp [runHostOp, hostGenerate, he, Nat.ne_of_gt hrate]

theorem step_generate_succ {s : State} {e : Engine} {rate : Nat} (he : s.engine = some e) (hrate : 1 ≤ rate)
    (request : MixRequest) (n : Nat) :
    step (s.pushInputs [.generate (n + 1) rate request]) =
      .next ({ s with host := { s.host with sampleAcc := sampleAccNext e rate s.host.sampleAcc } }.pushInputs
        (List.replicate (sampleTicks e rate s.host.sampleAcc) HostOp.tick ++
          [HostOp.mix request, HostOp.generate n rate request])) := by
  simp [runHostOp, hostGenerate, he, Nat.ne_of_gt hrate]

/-- The machine after one sample of the loop, with the mixer's answer `v` (R171). -/
def State.afterSample (s : State) (e : Engine) (rate : Nat) (v : Sample) : State :=
  { engine := some (e.ticks (sampleTicks e rate s.host.sampleAcc))
    host :=
      { s.host with
        sampleAcc := sampleAccNext e rate s.host.sampleAcc
        answers := s.host.answers ++ [.sample v] } }

/-- The loop makes its first sample and goes on with one fewer. -/
theorem reaches_afterSample {s : State} {e : Engine} {rate : Nat} {request : MixRequest} {v : Sample}
    (he : s.engine = some e) (hd : s.host.due = []) (hrate : 1 ≤ rate)
    (hv : (e.ticks (sampleTicks e rate s.host.sampleAcc)).mixFor request = .ok v) (n : Nat) :
    (s.pushInputs [.generate (n + 1) rate request]).Reaches
      ((s.afterSample e rate v).pushInputs [.generate n rate request]) := by
  have hgenerate := reaches_of_step (step_generate_succ he hrate request n)
  have hticks := reaches_ticks
    (s := { s with host := { s.host with sampleAcc := sampleAccNext e rate s.host.sampleAcc } }) he hd
    (sampleTicks e rate s.host.sampleAcc) [.mix request, .generate n rate request]
  exact hgenerate.trans (hticks.trans (reaches_of_step (step_mix_of_ok rfl hv _)))

/-! All samples -/

/-- Quotients of a sum taken in two parts, the remainder of the first carried to the second, add up: why the loop has
no drift (R172). -/
theorem div_add_mod_add_div {d : Nat} (hd : 0 < d) (a b : Nat) : a / d + (a % d + b) / d = (a + b) / d := by
  rw [← Nat.mul_add_div hd, ← Nat.add_assoc, Nat.div_add_mod]

/-- The ticks of the first `j` samples, as R172 counts them. -/
def Engine.ticksOfSamples (e : Engine) (rate j : Nat) : Nat := j * e.hostClockHz / (e.cfg.clockDivider * rate)

/-- The machine after `j` samples of a loop that began with `sample_acc` at 0, whose `i`-th answer is `v i`. -/
def State.afterSamples (s : State) (e : Engine) (rate : Nat) (v : Nat → Sample) (j : Nat) : State :=
  { engine := some (e.ticks (e.ticksOfSamples rate j))
    host :=
      { s.host with
        sampleAcc := j * e.hostClockHz % (e.cfg.clockDivider * rate)
        answers := s.host.answers ++ (List.range j).map (fun i => .sample (v i)) } }

theorem State.afterSamples_zero {s : State} {e : Engine} (he : s.engine = some e) (hacc : s.host.sampleAcc = 0)
    (rate : Nat) (v : Nat → Sample) : s.afterSamples e rate v 0 = s := by
  obtain ⟨engine, inputs, due, acc, answers⟩ := s
  obtain rfl : engine = some e := he
  obtain rfl : acc = 0 := hacc
  simp [State.afterSamples, Engine.ticksOfSamples]

section Samples
variable {s : State} {e : Engine} {rate : Nat} {v : Nat → Sample} (hpos : 0 < e.cfg.clockDivider * rate)
include hpos

/-- The ticks of one more sample are those that the loop works out from its accumulator. -/
theorem Engine.ticksOfSamples_succ (j : Nat) :
    e.ticksOfSamples rate (j + 1) =
      e.ticksOfSamples rate j +
        sampleTicks (e.ticks (e.ticksOfSamples rate j)) rate (j * e.hostClockHz % (e.cfg.clockDivider * rate)) := by
  simp only [Engine.ticksOfSamples, sampleTicks, Engine.ticks_cfg, Engine.ticks_hostClockHz,
    div_add_mod_add_div hpos, Nat.succ_mul]

theorem State.afterSamples_succ (j : Nat) :
    (s.afterSamples e rate v j).afterSample (e.ticks (e.ticksOfSamples rate j)) rate (v j) =
      s.afterSamples e rate v (j + 1) := by
  simp only [State.afterSample, State.afterSamples, ← Engine.ticks_add, ← Engine.ticksOfSamples_succ hpos,
    sampleAccNext, Engine.ticks_cfg, Engine.ticks_hostClockHz, Nat.mod_add_mod, Nat.succ_mul, List.range_succ,
    List.map_append, List.map_cons, List.map_nil, List.append_assoc]

/-- From the state after `j` samples, a loop of `n` more ends in the state after `j + n`. -/
theorem reaches_afterSamples {request : MixRequest} (hd : s.host.due = []) (hrate : 1 ≤ rate)
    (hv : ∀ j, (e.ticks (e.ticksOfSamples rate (j + 1))).mixFor request = .ok (v j)) (n j : Nat) :
    ((s.afterSamples e rate v j).pushInputs [.generate n rate request]).Reaches
      (s.afterSamples e rate v (j + n)) := by
  induction n generalizing j with
  | zero => exact reaches_of_step (step_generate_zero rfl hrate request)
  | succ n ih =>
    have hanswer := hv j
    rw [Engine.ticksOfSamples_succ hpos, Engine.ticks_add] at hanswer
    have hsample := reaches_afterSample (s := s.afterSamples e rate v j) rfl hd hrate hanswer n
    rw [State.afterSamples_succ hpos] at hsample
    rw [← Nat.add_assoc, Nat.add_right_comm]
    exact hsample.trans (ih (j + 1))

end Samples

/-- The mixer refuses nothing but mono from a stereo variant (R168). -/
theorem exists_mixFor_ok {e : Engine} {request : MixRequest} (h : request = .mono → e.cfg.hasStereo = false) :
    ∃ v, e.mixFor request = .ok v := by
  cases hst : e.cfg.hasStereo with
  | false => exact ⟨_, mixFor_of_not_hasStereo hst request⟩
  | true =>
    have hne : request ≠ .mono := fun hmono => absurd (h hmono) (by simp [hst])
    exact ⟨_, (mixFor_of_hasStereo hst request).trans (if_neg hne)⟩

/-- Settles O52: by induction on the samples, with the machine after each of them given whole. -/
theorem generateHasNoDrift : Obligations.GenerateHasNoDrift := by
  intro s e samples rate request he hd hacc hrate hdiv hrequest
  have hanswered := fun j => exists_mixFor_ok (e := e.ticks (e.ticksOfSamples rate (j + 1))) (request := request)
    (by simpa using hrequest)
  choose v hv using hanswered
  have hreaches := reaches_afterSamples (s := s) (Nat.mul_pos hdiv hrate) hd hrate hv samples 0
  rw [State.afterSamples_zero he hacc, Nat.zero_add] at hreaches
  obtain ⟨k, hrun⟩ := hreaches
  exact ⟨k, v, hv, hrun⟩

end Sys2Proof.Machine
end

section
/-! PROOFS. Without an engine nothing but `construct` has a meaning, and no operation but `construct` changes the
configuration of one that runs (spec 44_engine.md R197, R198). -/

namespace Sys2Proof.Machine

/-- Settles O16: nine rows are lifted operations of the engine, and the stereo row looks for the engine first. -/
theorem execNeedsEngine : Obligations.ExecNeedsEngine := by
  intro i s hs
  cases i with
  | stereo m => simp [exec, execStereo, hs]
  | _ => exact onEngine_none hs

/-- The host's tick is refused too, whether a held write is due before it or not. -/
theorem hostTick_refused {s : State} (hs : s.engine = none) : hostTick s = .refused .noEngine := by
  cases hd : takeDue s.host.due with
  | some due => exact (hostTick_of_takeDue_some hd).trans (execNeedsEngine _ _ hs)
  | none => exact (hostTick_of_takeDue_none hd).trans (onEngine_none hs)

/-- The operations of R197 one by one. -/
theorem runHostOp_refused {op : HostOp} {s : State} (hs : s.engine = none) (hop : op.needsEngine = true) :
    runHostOp op s = .refused .noEngine := by
  cases op with
  | construct a hz => cases hop
  | write p b => exact execNeedsEngine _ _ hs
  | tick => exact hostTick_refused hs
  | reset => exact onEngine_none hs
  | isReady => simp [runHostOp, hostIsReady, hs]
  | mix request => simp [runHostOp, hostMix, hs]
  | generate n rate request => simp [runHostOp, hostGenerate, hs]
  | writeAt n p b => cases hop

/-- A step carries out a `construct` only when that is the host's next operation: a held write is no `construct`. -/
theorem eq_construct_of_nextOp {s : State} {op : HostOp} {rest : List HostOp} {a : ConfigArgs} {hz : Int}
    (hin : s.host.inputs = op :: rest) (h : s.nextOp = some (.construct a hz)) : op = .construct a hz := by
  by_cases htick : op = .tick
  · cases hd : takeDue s.host.due <;> simp [State.nextOp, hin, htick, hd] at h
  · simpa [State.nextOp, hin, htick] using h

/-- Settles O43: each operation of R197 is refused, and an engine after the step comes from a `construct`. -/
theorem operationsNeedEngine : Obligations.OperationsNeedEngine := by
  intro s op rest hs hin
  refine ⟨fun hop => ?_, fun t hstep hsome => ?_⟩
  · rw [step_cons hin]
    exact runHostOp_refused hs hop
  · rcases step_engine_none hs hstep with hnone | ⟨a, hz, hnext, -⟩
    · simp [hnone] at hsome
    · rw [eq_construct_of_nextOp hin hnext]
      rfl

/-- Settles O46: a write, a tick and a reset keep both, and what is none of these keeps the engine. -/
theorem configurationIsFixed : Obligations.ConfigurationIsFixed := by
  intro s t e he hstep hconstruct
  rcases step_engine he hstep with ⟨p, b, -, ht, -⟩ | ⟨-, ht⟩ | ⟨-, ht⟩ | ⟨a, hz, hop, -⟩ | ⟨ht, -⟩
  · exact ⟨_, ht, e.after_cfg _, e.after_hostClockHz _⟩
  · exact ⟨_, ht, e.tick_cfg, e.tick_hostClockHz⟩
  · exact ⟨_, ht, rfl, rfl⟩
  · exact absurd hop (hconstruct a hz)
  · exact ⟨e, ht, rfl, rfl⟩

end Sys2Proof.Machine
end

section
/-! PROOFS. The ready line: what `is_ready` answers, how long a write keeps the line busy, and that nothing else depends
on it (spec 44_engine.md R191 to R194). -/

namespace Sys2Proof.Machine

/-- An instruction that completes on a running engine did what `Engine.after` says. -/
theorem exec_next_of_engine {i : Instr} {s t : State} {e : Engine} (he : s.engine = some e) (h : exec i s = .next t) :
    t = s.withEngine (e.after i) := by
  obtain ⟨e₀, he₀, ht⟩ := exec_next h
  obtain rfl : e₀ = e := Option.some.inj (he₀.symm.trans he)
  exact ht

/-! The answer -/

theorem isReady_of_hasReady {e : Engine} (h : e.cfg.hasReady = true) : isReady e = e.readyLine.ready := if_pos h

theorem isReady_of_not_hasReady {e : Engine} (h : e.cfg.hasReady = false) : isReady e = true :=
  if_neg (ne_true_of_eq_false h)

theorem step_isReady {s : State} {e : Engine} (he : s.engine = some e) :
    step (s.pushInputs [.isReady]) = .next (s.answer (.ready (isReady e))) := by
  simp [runHostOp, hostIsReady, he]

/-- Settles O37: the answer by whether the variant has a ready line. -/
theorem isReadyAnswers : Obligations.IsReadyAnswers := by
  intro s e he
  rw [step_isReady he]
  exact ⟨fun h => by rw [isReady_of_hasReady h], fun h => by rw [isReady_of_not_hasReady h]⟩

/-! The countdown -/

theorem readyTick_of_over {c : Config} {r : ReadyLine} (h : c.hasReady = false ∨ r.cyclesToReady = 0) :
    readyTick c r = r := by
  refine if_neg fun ⟨hr, hpos⟩ => ?_
  rcases h with hno | hzero
  · exact absurd hr (ne_true_of_eq_false hno)
  · exact absurd hzero hpos.ne'

theorem readyTick_of_last {c : Config} {r : ReadyLine} (hr : c.hasReady = true) (h : r.cyclesToReady = 1) :
    readyTick c r = ⟨true, 0⟩ := by
  simp [readyTick, hr, h]

theorem readyTick_of_counting {c : Config} {r : ReadyLine} (hr : c.hasReady = true) (h : 1 < r.cyclesToReady) :
    readyTick c r = ⟨r.ready, r.cyclesToReady - 1⟩ := by
  have hpos : 0 < r.cyclesToReady := by omega
  have hleft : ¬ r.cyclesToReady - 1 = 0 := by omega
  rw [readyTick, if_pos ⟨hr, hpos⟩, if_neg hleft]

/-- A countdown of `k` that has just begun is `n` lower after `n` ticks, and the line is ready from its end on (R191,
R192). -/
theorem Engine.ticks_readyLine_of_busy {e : Engine} {k : Nat} (hr : e.cfg.hasReady = true) (hk : 1 ≤ k)
    (h : e.readyLine = ⟨false, k⟩) (n : Nat) : (e.ticks n).readyLine = ⟨decide (k ≤ n), k - n⟩ := by
  induction n with
  | zero => rw [Engine.ticks_zero, h, decide_eq_false (Nat.not_le.mpr hk), Nat.sub_zero]
  | succ n ih =>
    rw [Engine.ticks_succ, Engine.tick_readyLine, Engine.ticks_cfg, ih]
    rcases lt_trichotomy k (n + 1) with hover | rfl | hcounting
    · have hle : k ≤ n := Nat.le_of_lt_succ hover
      have hleft : k - n = 0 := Nat.sub_eq_zero_of_le hle
      rw [readyTick_of_over (.inr hleft), hleft, Nat.sub_eq_zero_of_le hover.le, decide_eq_true hle,
        decide_eq_true hover.le]
    · rw [readyTick_of_last hr (Nat.add_sub_cancel_left n 1), decide_eq_true le_rfl, Nat.sub_self]
    · have hleft : 1 < k - n := by omega
      have hbusy : ¬ k ≤ n := by omega
      rw [readyTick_of_counting hr hleft, decide_eq_false hbusy, decide_eq_false (Nat.not_le.mpr hcounting),
        Nat.sub_sub]

/-- Settles O35: a byte on `MAIN` begins the countdown, a stereo byte leaves the line, and a tick is one of the cases of
`ReadyTick`. -/
theorem busyForReadyCycles : Obligations.BusyForReadyCycles := by
  refine ⟨fun b s e he => ?_, fun m s t e he hexec => ?_, fun e => ⟨fun hr hpos => ?_, readyTick_of_over⟩⟩
  · have hrestarted := e.after_readyRestarted (decode_main_ne_stereo b)
    have ⟨hbusy, _⟩ := hrestarted
    refine ⟨_, step_write_main he b [], hrestarted, fun hr hcycles n => ?_⟩
    rw [Engine.ticks_readyLine_of_busy ((congrArg Config.hasReady (e.after_cfg _)).trans hr) hcycles (hbusy hr)]
  · rw [exec_next_of_engine he hexec]
    exact ⟨_, rfl, rfl⟩
  · rw [Engine.tick_readyLine]
    rcases Nat.eq_or_lt_of_le hpos with hlast | hcounting
    · rw [readyTick_of_last hr hlast.symm, ← hlast]
      exact ⟨rfl, fun _ => rfl, fun hgt => absurd hgt (lt_irrefl 1)⟩
    · rw [readyTick_of_counting hr hcounting]
      exact ⟨rfl, fun hone => absurd hone hcounting.ne', fun _ => rfl⟩

/-! What depends on it -/

theorem Engine.sameButReady_iff {e f : Engine} : e.SameButReady f ↔ ∃ r, f = { e with readyLine := r } :=
  ⟨fun h => ⟨f.readyLine, h.symm⟩, fun ⟨_, h⟩ => h ▸ rfl⟩

/-- No instruction reads the ready line. -/
theorem Engine.SameButReady.after {e f : Engine} (h : e.SameButReady f) (i : Instr) :
    (e.after i).SameButReady (f.after i) := by
  obtain ⟨r, rfl⟩ := Engine.sameButReady_iff.mp h
  cases i with
  | data x d =>
    simp only [Engine.after, Engine.dataByte]
    cases dataTarget e.lastLatched with
    | none => rfl
    | some c => cases c <;> rfl
  | _ => rfl

/-- No tick reads the ready line but for its own countdown. -/
theorem Engine.SameButReady.tick {e f : Engine} (h : e.SameButReady f) : e.tick.SameButReady f.tick := by
  obtain ⟨r, rfl⟩ := Engine.sameButReady_iff.mp h
  rfl

theorem Engine.SameButReady.ticks {e f : Engine} (h : e.SameButReady f) (n : Nat) :
    (e.ticks n).SameButReady (f.ticks n) := by
  induction n with
  | zero => exact h
  | succ n ih =>
    rw [Engine.ticks_succ, Engine.ticks_succ]
    exact ih.tick

theorem Engine.SameButReady.cfg {e f : Engine} (h : e.SameButReady f) : f.cfg = e.cfg := by
  obtain ⟨r, rfl⟩ := Engine.sameButReady_iff.mp h
  rfl

/-- The ready line is no input of the mixer (R169). -/
theorem Engine.SameButReady.sameToMixer {e f : Engine} (h : e.SameButReady f) : e.SameToMixer f := by
  obtain ⟨r, rfl⟩ := Engine.sameButReady_iff.mp h
  exact ⟨rfl, fun _ => rfl, fun _ => rfl, rfl⟩

/-- An instruction that completes on an engine completes on every other of its configuration. -/
theorem exec_withEngine_of_next {i : Instr} {s t : State} {e f : Engine} (he : s.engine = some e)
    (hcfg : f.cfg = e.cfg) (h : exec i s = .next t) :
    exec i (s.withEngine f) = .next (s.withEngine (f.after i)) := by
  rcases exec_some (i := i) (s.withEngine_engine f) with hf | ⟨-, hno, m, rfl⟩
  · exact hf
  · rw [exec_stereo_refused he (hcfg ▸ hno)] at h
    cases h

/-- Settles O36: instructions and ticks keep two such engines alike, the mixer does not read the line, and each write on
`MAIN` restarts the line of both. -/
theorem readyLineGatesNothing : Obligations.ReadyLineGatesNothing := by
  intro s e f he hsame
  refine ⟨fun i t hexec => ?_, fun b => ?_, hsame.ticks, mixReadsOnlyItsInputs e f hsame.sameToMixer⟩
  · obtain rfl := exec_next_of_engine he hexec
    exact ⟨_, _, rfl, exec_withEngine_of_next he hsame.cfg hexec, hsame.after i⟩
  · have hmain := decode_main_ne_stereo b
    exact ⟨_, _, exec_main_next he hmain, e.after_readyRestarted hmain, exec_main_next rfl hmain,
      f.after_readyRestarted hmain⟩

end Sys2Proof.Machine
end

section
/-! PROOFS. The checks of `construct` in their order, with the width of the shift register taken from the feedback mask
(spec 44_engine.md R196). -/

namespace Sys2Proof

/-- The exponent of a mask that is a power of two is its high bit (R131). -/
theorem ConfigArgs.highBit_eq {a : ConfigArgs} {h : Nat} (hm : a.feedbackMask = 2 ^ h) : a.highBit = h := by
  have hnat : a.feedbackMask.toNat = 2 ^ h := by
    rw [hm]
    exact_mod_cast Int.toNat_natCast (2 ^ h)
  rw [ConfigArgs.highBit, hnat, Nat.log2_two_pow]

namespace Machine

/-- The checks that are left once the mask is known to be `2^h`, so that the register has `h + 1` bits. -/
theorem checkConfig_of_mask {a : ConfigArgs} {h : Nat} (hm : a.feedbackMask = 2 ^ h) (hz : Int) :
    checkConfig a hz =
      if ¬ ((0 ≤ a.tap1 ∧ a.tap1 < h + 1) ∧ (0 ≤ a.tap2 ∧ a.tap2 < h + 1)) then some .tapOutOfRange
      else if ¬ (0 ≤ a.lfsrReset ∧ a.lfsrReset < 2 ^ (h + 1)) then some .resetValueOutOfRange
      else if ¬ 1 ≤ a.clockDivider then some .badClockDivider
      else if ¬ (1 ≤ a.noiseDiv0 ∧ 1 ≤ a.noiseDiv1 ∧ 1 ≤ a.noiseDiv2) then some .badNoiseDivider
      else if a.volumeTable[15] ≠ 0 then some .silenceEntryNotZero
      else if ¬ (a.hasReady = false ∨ 1 ≤ a.readyCycles) then some .badReadyCycles
      else if ¬ 1 ≤ hz then some .badHostClock
      else none := by
  have hbit := ConfigArgs.highBit_eq hm
  have hmask : ¬ a.feedbackMask ≠ 2 ^ a.highBit := by rw [hbit]; exact not_not_intro hm
  rw [checkConfig, if_neg hmask, ConfigArgs.width, hbit]
  norm_cast

theorem step_construct_of_error {a : ConfigArgs} {hz : Int} {r : ConfigError} (hc : checkConfig a hz = some r)
    (s : State) : step (s.pushInputs [.construct a hz]) = .fault (.configError r) := by
  simp [runHostOp, doConstruct, hc, raiseConfigError]

/-- Settles O41: check by check, each passed one drops out of the list of those that are left. -/
theorem constructChecksInOrder : Obligations.ConstructChecksInOrder := by
  intro a hz s _
  have hfault {r : ConfigError} (hc : checkConfig a hz = some r) := step_construct_of_error hc s
  refine ⟨fun hno => hfault (if_pos fun hm => hno ⟨_, hm⟩), fun h hm => ?_⟩
  have hcheck := checkConfig_of_mask hm hz
  refine ⟨fun hbad => hfault (hcheck.trans (if_pos (hbad ∘ and_assoc.mp))),
    fun htap1 htap1' htap2 htap2' => ?_⟩
  rw [if_neg (not_not_intro ⟨⟨htap1, htap1'⟩, htap2, htap2'⟩)] at hcheck
  refine ⟨fun hbad => hfault (hcheck.trans (if_pos hbad)), fun hreset hreset' => ?_⟩
  rw [if_neg (not_not_intro ⟨hreset, hreset'⟩)] at hcheck
  refine ⟨fun hbad => hfault (hcheck.trans (if_pos hbad.not_ge)), fun hdivider => ?_⟩
  rw [if_neg (not_not_intro hdivider)] at hcheck
  refine ⟨fun hbad => hfault (hcheck.trans (if_pos (by omega))), fun hdiv0 hdiv1 hdiv2 => ?_⟩
  rw [if_neg (not_not_intro ⟨hdiv0, hdiv1, hdiv2⟩)] at hcheck
  refine ⟨fun hbad => hfault (hcheck.trans (if_pos hbad)), fun hsilence => ?_⟩
  rw [if_neg (not_not_intro hsilence)] at hcheck
  refine ⟨fun hr hbad => hfault (hcheck.trans (if_pos (by simp [hr, hbad]))), fun hready => ?_⟩
  rw [if_neg (not_not_intro hready)] at hcheck
  refine ⟨fun hbad => hfault (hcheck.trans (if_pos hbad.not_ge)), fun hclock => ?_⟩
  rw [if_neg (not_not_intro hclock)] at hcheck
  have ⟨hlegal, _⟩ := checkConfig_eq_none.mp hcheck
  exact ⟨_, doConstruct_of_legal hlegal hclock s, Engine.initial_atReset _ _, rfl, Int.toNat_of_nonneg (by omega)⟩

end Machine

end Sys2Proof
end

section
/-! PROOFS. What is saved of an engine is enough to build it again (spec 44_engine.md R199). -/

namespace Sys2Proof.Machine

theorem restoreTone_of_save (t : ToneChannel) :
    restoreTone t.period.toNat t.attenuation.toNat t.counter t.output.toNat = t := by
  simp [restoreTone]

theorem Engine.restore_save_tone (e : Engine) (c : Config) (hz : Nat) (i : ToneId) :
    (Engine.restore c hz e.save).tone i = e.tone i := by
  cases i <;> exact restoreTone_of_save _

/-- `noise_out` is not saved, since it is bit 0 of the register (R28). -/
theorem Engine.restore_save_noise {e : Engine} (hout : e.noise.output = e.noise.lfsr.testBit 0) (c : Config)
    (hz : Nat) : (Engine.restore c hz e.save).noise = e.noise :=
  NoiseChannel.eq_of_fields (by simp [Engine.restore, Engine.save]) (by simp [Engine.restore, Engine.save]) rfl rfl
    hout.symm

theorem Engine.restore_save_lastLatched (e : Engine) (c : Config) (hz : Nat) :
    (Engine.restore c hz e.save).lastLatched = e.lastLatched := by
  cases h : e.lastLatched <;> simp [Engine.restore, Engine.save, h]

/-- A mask that is not saved is the reset value (log 7). -/
theorem Engine.restore_save_stereoMask {e : Engine} (habsent : e.cfg.hasStereo = false → e.stereoMask = 0xFF)
    (c : Config) (hz : Nat) : (Engine.restore c hz e.save).stereoMask = e.stereoMask := by
  cases hst : e.cfg.hasStereo with
  | false => simp [Engine.restore, Engine.save, hst, habsent hst]
  | true => simp [Engine.restore, Engine.save, hst]

theorem Engine.restore_save_readyLine (e : Engine) (c : Config) (hz : Nat) :
    (Engine.restore c hz e.save).readyLine = e.readyLine := by
  simp [Engine.restore, Engine.save]

/-- Settles O51: field by field; the invariant gives the two that are not saved, `noise_out` and an absent mask. -/
theorem restoreOfSave : Obligations.RestoreOfSave := by
  intro e hinv
  refine ⟨Engine.eq_of_fields rfl rfl (e.restore_save_tone _ _) (Engine.restore_save_noise hinv.noiseOut _ _)
    (e.restore_save_lastLatched _ _) (Engine.restore_save_stereoMask hinv.stereoAbsent _ _)
    (e.restore_save_readyLine _ _), ?_⟩
  cases hst : e.cfg.hasStereo <;> simp [Engine.save, hst]

end Sys2Proof.Machine
end

section
/-! PROOFS. When a step stops, and why: on a running engine every operation the variant has goes through, and each stop
has a ground (spec 60_exceptions.md R210, R211, R216). -/

namespace Sys2Proof.Machine

/-- Settles O48: with no operation to issue, `step` answers the state it was given. -/
theorem idleMachineHolds : Obligations.IdleMachineHolds := fun _ h => step_idle h

/-- `State.nextOp` names what the step runs, on the engine the machine has: the engine's tick when it is the tick, or
else that operation of the host, a held write that is due included. -/
theorem step_of_nextOp {s : State} {op : HostOp} (hn : s.nextOp = some op) :
    ∃ s', s'.engine = s.engine ∧
      ((op = .tick ∧ step s = onEngine Engine.tick s') ∨ (op ≠ .tick ∧ step s = runHostOp op s')) := by
  rcases step_split s with ⟨hn', -⟩ | ⟨p, b, s', hn', he, hs⟩ | ⟨s', hn', he, hs⟩ | ⟨op', s', hn', he, hs, htick, -⟩ <;>
    cases hn'.symm.trans hn
  · exact ⟨s', he, .inr ⟨nofun, hs⟩⟩
  · exact ⟨s', he, .inl ⟨rfl, hs⟩⟩
  · exact ⟨s', he, .inr ⟨htick, hs⟩⟩

theorem step_of_nextOp_none {s : State} (hn : s.nextOp = none) : step s = .next s := by
  rcases step_split s with ⟨-, hs⟩ | ⟨_, _, _, hn', -⟩ | ⟨_, hn', -⟩ | ⟨_, _, hn', -⟩
  · exact hs
  all_goals cases hn'.symm.trans hn

/-! Operations the variant has -/

theorem State.power_of_engine {s : State} {e : Engine} (he : s.engine = some e) : s.power = .running := by
  simp [State.power, he]

/-- `MAIN` is on every variant (R90), `STEREO` on those with stereo (R101). -/
theorem exec_decode_of_hasMeaning {p : Port} {b : Byte} {s : State} {e : Engine} (he : s.engine = some e)
    (h : (HostOp.write p b).hasMeaning e.cfg = true) :
    exec (decode p b) s = .next (s.withEngine (e.after (decode p b))) := by
  cases p with
  | main => exact exec_main_next he (decode_main_ne_stereo b)
  | stereo =>
    have hst : e.cfg.hasStereo = true := h
    simp [exec, execStereo, Engine.after, he, hst]

theorem mix_hasMeaning {c : Config} {request : MixRequest} :
    (HostOp.mix request).hasMeaning c = true ↔ (request = .mono → c.hasStereo = false) := by
  cases request <;> simp [HostOp.hasMeaning]

theorem generate_hasMeaning {c : Config} {n rate : Nat} {request : MixRequest} :
    (HostOp.generate n rate request).hasMeaning c = true ↔ 1 ≤ rate := by
  simp [HostOp.hasMeaning, Nat.one_le_iff_ne_zero]

/-- R210 operation by operation; the tick is left out, since a held write that is due takes its place (log 13). -/
theorem runHostOp_of_hasMeaning {op : HostOp} {s : State} {e : Engine} (he : s.engine = some e) (htick : op ≠ .tick)
    (hop : op.hasMeaning e.cfg = true) : ∃ t, runHostOp op s = .next t := by
  cases op with
  | construct a hz => cases hop
  | write p b => exact ⟨_, exec_decode_of_hasMeaning he hop⟩
  | tick => exact absurd rfl htick
  | reset => exact ⟨_, onEngine_some he⟩
  | isReady => exact ⟨_, step_isReady he⟩
  | mix request =>
    obtain ⟨v, hv⟩ := exists_mixFor_ok (mix_hasMeaning.mp hop)
    exact ⟨_, step_mix_of_ok he hv []⟩
  | generate n rate request =>
    have hrate : 1 ≤ rate := generate_hasMeaning.mp hop
    cases n with
    | zero => exact ⟨_, step_generate_zero he hrate request⟩
    | succ n => exact ⟨_, step_generate_succ he hrate request n⟩
  | writeAt n p b => exact ⟨_, rfl⟩

theorem step_of_hasMeaning {s : State} {e : Engine} {op : HostOp} (he : s.engine = some e) (hn : s.nextOp = some op)
    (hop : op.hasMeaning e.cfg = true) : ∃ t, step s = .next t := by
  obtain ⟨s', he', ⟨-, hs⟩ | ⟨htick, hs⟩⟩ := step_of_nextOp hn <;> rw [hs]
  · exact ⟨_, onEngine_some (he'.trans he)⟩
  · exact runHostOp_of_hasMeaning (he'.trans he) htick hop

theorem step_engine_isSome {s t : State} {e : Engine} (he : s.engine = some e) (h : step s = .next t) :
    ∃ e', t.engine = some e' := by
  rcases step_engine he h with ⟨_, _, -, ht, -⟩ | ⟨-, ht⟩ | ⟨-, ht⟩ | ⟨_, _, -, -, ht⟩ | ⟨ht, -⟩ <;> exact ⟨_, ht⟩

/-- Settles O44: the step goes through, and one that does leaves an engine. -/
theorem runningEngineNeverStops : Obligations.RunningEngineNeverStops := by
  intro s e op he hn hop
  obtain ⟨t, ht⟩ := step_of_hasMeaning he hn hop
  obtain ⟨e', he'⟩ := step_engine_isSome he ht
  exact ⟨t, ht, State.power_of_engine he'⟩

/-! Operations that stop -/

/-- The grounds of a refusal, by the engine the machine has and the operation its step carries out (R101, R168, R197,
log 15). -/
def Refusal.Ground (engine : Option Engine) (next : Option HostOp) (r : Refusal) : Prop :=
  (r = .noEngine ∧ engine = none) ∨
  (∃ e, engine = some e ∧ e.cfg.hasStereo = false ∧ r = .stereoPortAbsent ∧ ∃ b, next = some (.write .stereo b)) ∨
  (∃ e, engine = some e ∧ e.cfg.hasStereo = true ∧ r = .monoFromStereoVariant ∧ next = some (.mix .mono)) ∨
  (r = .sampleRateZero ∧ ∃ n q, next = some (.generate n 0 q))

/-- What can come of carrying out an operation: it goes through, is a `construct` that faults, or is refused on a
ground. -/
def HostOp.CanEndIn (engine : Option Engine) (op : HostOp) (o : Host.Outcome State Fault Refusal) : Prop :=
  (∃ t, o = .next t) ∨ (∃ a hz f, op = .construct a hz ∧ o = .fault f) ∨
    ∃ r, o = .refused r ∧ r.Ground engine (some op)

theorem HostOp.canEndIn_noEngine {op : HostOp} {o : Host.Outcome State Fault Refusal} (h : o = .refused .noEngine) :
    op.CanEndIn none o :=
  .inr (.inr ⟨_, h, .inl ⟨rfl, rfl⟩⟩)

/-- A `construct` builds an engine or raises `ConfigError`, whether an engine runs or not (R196, log 9). -/
theorem construct_canEndIn (engine : Option Engine) (a : ConfigArgs) (hz : Int) (s : State) :
    (HostOp.construct a hz).CanEndIn engine (runHostOp (.construct a hz) s) := by
  cases hc : checkConfig a hz with
  | some reason => exact .inr (.inl ⟨a, hz, _, rfl, step_construct_of_error hc s⟩)
  | none =>
    obtain ⟨hlegal, hhz⟩ := checkConfig_eq_none.mp hc
    exact .inl ⟨_, doConstruct_of_legal hlegal hhz s⟩

/-- Without an engine only `construct` and the host's own bookkeeping are not refused (R197). -/
theorem runHostOp_canEndIn_of_none {s : State} (he : s.engine = none) (op : HostOp) :
    op.CanEndIn none (runHostOp op s) := by
  cases op with
  | construct a hz => exact construct_canEndIn _ a hz s
  | writeAt n p b => exact .inl ⟨_, rfl⟩
  | _ => exact HostOp.canEndIn_noEngine (runHostOp_refused he rfl)

theorem hasMeaning_eq_false {c : Config} {op : HostOp} (h : op.hasMeaning c = false) :
    (∃ a hz, op = .construct a hz) ∨ (c.hasStereo = false ∧ ∃ b, op = .write .stereo b) ∨
      (c.hasStereo = true ∧ op = .mix .mono) ∨ ∃ n q, op = .generate n 0 q := by
  cases op with
  | construct a hz => exact .inl ⟨a, hz, rfl⟩
  | write p b =>
    cases p with
    | main => cases h
    | stereo => exact .inr (.inl ⟨h, b, rfl⟩)
  | mix request =>
    cases request with
    | mono => exact .inr (.inr (.inl ⟨by simpa [HostOp.hasMeaning] using h, rfl⟩))
    | _ => cases h
  | generate n rate q =>
    obtain rfl : rate = 0 := bne_eq_false_iff_eq.mp h
    exact .inr (.inr (.inr ⟨n, q, rfl⟩))
  | _ => cases h

/-- On a running engine an operation that has a meaning goes through, and each of the others has its own outcome. -/
theorem runHostOp_canEndIn_of_some {s : State} {e : Engine} {op : HostOp} (he : s.engine = some e)
    (htick : op ≠ .tick) : op.CanEndIn (some e) (runHostOp op s) := by
  cases hop : op.hasMeaning e.cfg with
  | true => exact .inl (runHostOp_of_hasMeaning he htick hop)
  | false =>
    rcases hasMeaning_eq_false hop with ⟨a, hz, rfl⟩ | ⟨hst, b, rfl⟩ | ⟨hst, rfl⟩ | ⟨n, q, rfl⟩
    · exact construct_canEndIn _ a hz s
    · exact .inr (.inr ⟨_, exec_stereo_refused he hst b, .inr (.inl ⟨e, rfl, hst, rfl, b, rfl⟩)⟩)
    · have hmix : e.mixFor .mono = .error .monoFromStereoVariant := if_pos hst
      exact .inr (.inr ⟨_, step_mix_of_error he hmix [], .inr (.inr (.inl ⟨e, rfl, hst, rfl, rfl⟩))⟩)
    · have hzero : hostGenerate n 0 q s = .refused .sampleRateZero := by simp [hostGenerate, he]
      exact .inr (.inr ⟨_, hzero, .inr (.inr (.inr ⟨rfl, n, q, rfl⟩))⟩)

theorem step_canEndIn {s : State} {op : HostOp} (hn : s.nextOp = some op) : op.CanEndIn s.engine (step s) := by
  obtain ⟨s', he', ⟨-, hs⟩ | ⟨htick, hs⟩⟩ := step_of_nextOp hn <;> rw [hs, ← he']
  · cases he : s'.engine with
    | none => exact HostOp.canEndIn_noEngine (onEngine_none he)
    | some e => exact .inl ⟨_, onEngine_some he⟩
  · cases he : s'.engine with
    | none => exact runHostOp_canEndIn_of_none he op
    | some e => exact runHostOp_canEndIn_of_some he htick

/-- Settles O45: an idle step goes through, and a step that carries out an operation can end in three ways only. -/
theorem stopsHaveTheirGround : Obligations.StopsHaveTheirGround := by
  intro s
  cases hn : s.nextOp with
  | none =>
    rw [step_of_nextOp_none hn]
    exact ⟨nofun, nofun⟩
  | some op =>
    rcases step_canEndIn hn with ⟨t, ht⟩ | ⟨a, hz, f, rfl, hf⟩ | ⟨r, hr, hground⟩
    · rw [ht]
      exact ⟨nofun, nofun⟩
    · rw [hf]
      exact ⟨fun _ _ => ⟨a, hz, rfl⟩, nofun⟩
    · rw [hr]
      refine ⟨nofun, fun r' hr' => ?_⟩
      cases hr'
      exact hground

end Sys2Proof.Machine
end

section
/-! PROOFS. Silence after reset, what ends it, and the first tick after it (spec 70_reset_and_hazards.md R232). -/

namespace Sys2Proof.Machine

/-! The attenuations -/

/-- Zero-extending loses nothing: a register's view tells its contents (R21). -/
theorem setWidth_inj_of_le {m n : Nat} (hmn : m ≤ n) {x y : BitVec m} : x.setWidth n = y.setWidth n ↔ x = y := by
  refine ⟨fun h => ?_, congrArg _⟩
  have hback := congrArg (BitVec.setWidth m) h
  rwa [BitVec.setWidth_setWidth_of_le x hmn, BitVec.setWidth_setWidth_of_le y hmn, BitVec.setWidth_eq,
    BitVec.setWidth_eq] at hback

/-- An attenuation is what its register reads (R20, R21). -/
theorem Engine.att_eq_iff_reg {e : Engine} {ch : Channel} {d : BitVec 4} :
    e.att ch = d ↔ e.reg ch.attIndex = d.setWidth 10 := by
  rw [Engine.reg_attIndex, setWidth_inj_of_le (by decide)]

theorem Engine.att_congr {e f : Engine} {ch : Channel} (h : f.reg ch.attIndex = e.reg ch.attIndex) :
    f.att ch = e.att ch :=
  Engine.att_eq_iff_reg.mpr (h.trans (e.reg_attIndex ch))

/-- A data byte writes a period or nothing, so no attenuation (R75, R100). -/
theorem Engine.dataByte_att (e : Engine) (h : BitVec 6) (ch : Channel) : (e.dataByte h).att ch = e.att ch := by
  refine Engine.att_congr ?_
  unfold Engine.dataByte
  cases dataTarget e.lastLatched with
  | none => rfl
  | some c => exact Engine.setPeriod_reg_of_ne _ _ (by cases ch <;> cases c <;> decide)

/-- A latch byte to an attenuation register has bit 4 set: their indices are the odd ones (R75). -/
theorem getLsbD_four_of_latchIndex {b : Byte} {ch : Channel} (h : latchIndex b = ch.attIndex) :
    b.getLsbD 4 = true := by
  have hbit : (latchIndex b).getLsbD 0 = b.getLsbD 4 := by simp [latchIndex]
  rw [← hbit, h]
  cases ch <;> rfl

/-- A latch byte stores its data in the attenuation that it names and keeps the others (R93, R99). -/
theorem Engine.after_decodeLatch_att_eq (e : Engine) (r : BitVec 3) (d : BitVec 4) (ch : Channel) :
    (e.after (decodeLatch r d)).att ch = if ch.attIndex = r then d else e.att ch := by
  split
  · subst r
    exact e.after_decodeLatch_att ch d
  · exact Engine.att_congr ((e.after_decodeLatch_reg r d _).trans (if_neg ‹_›))

/-! Silence -/

/-- Every attenuation is 15, the code of silence (R162, R232). -/
def Engine.Silenced (e : Engine) : Prop := ∀ ch, e.att ch = 15

theorem Engine.AtReset.silenced {e : Engine} (h : e.AtReset) : e.Silenced := by
  obtain ⟨h0, h1, h2, h3⟩ := h.attenuations
  intro ch
  rw [Engine.att_eq_iff_reg]
  cases ch
  exacts [h0, h1, h2, h3]

/-- A byte on `MAIN` keeps the silence unless it is a latch byte that writes an attenuation below 15. -/
theorem Engine.Silenced.after_main {e : Engine} (h : e.Silenced) {b : Byte}
    (hb : b.getLsbD 7 = true → b.getLsbD 4 = true → b.extractLsb' 0 4 = 15) :
    (e.after (decode .main b)).Silenced := by
  intro ch
  cases hlatch : b.getLsbD 7 with
  | true =>
    rw [decode_main_of_latch hlatch, Engine.after_decodeLatch_att_eq]
    split
    · exact hb hlatch (getLsbD_four_of_latchIndex (Eq.symm ‹_›))
    · exact h ch
  | false =>
    rw [decode_main_of_data hlatch]
    exact (e.dataByte_att _ ch).trans (h ch)

theorem Engine.Silenced.after_stereo {e : Engine} (h : e.Silenced) (m : BitVec 8) :
    (e.after (.stereo m)).Silenced :=
  fun ch => (Engine.att_congr (e.setStereo_reg m _)).trans (h ch)

theorem Engine.Silenced.tick {e : Engine} (h : e.Silenced) : e.tick.Silenced :=
  fun ch => (Engine.att_congr (e.tick_reg _)).trans (h ch)

/-- A step keeps the silence, unless it writes an attenuation below 15. -/
theorem step_silenced {s t : State} {e : Engine} (he : s.engine = some e) (h : e.Silenced) (hstep : step s = .next t)
    (hb : ∀ b : Byte, s.nextOp = some (.write .main b) → b.getLsbD 7 = true → b.getLsbD 4 = true →
      b.extractLsb' 0 4 = 15) :
    ∃ e', t.engine = some e' ∧ e'.Silenced := by
  rcases step_engine he hstep with ⟨p, b, hop, ht, -⟩ | ⟨-, ht⟩ | ⟨-, ht⟩ | ⟨_, _, -, -, ht⟩ | ⟨ht, -⟩ <;>
    refine ⟨_, ht, ?_⟩
  · cases p with
    | main => exact h.after_main (hb b hop)
    | stereo => exact h.after_stereo b
  · exact h.tick
  · exact (Engine.initial_atReset _ _).silenced
  · exact (Engine.initial_atReset _ _).silenced
  · exact h

/-- A silenced engine mixes to 0, on both sides where there are two, when the table's last entry is 0 (R162, R232). -/
theorem Engine.Silenced.mix {e : Engine} (h : e.Silenced) (htable : e.cfg.volumeTable[15] = 0) :
    e.mix = if e.cfg.hasStereo then .pair 0 0 else .mono 0 := by
  have hsig : ∀ ch, e.sig ch = 0 := fun ch => Engine.sig_of_att_fifteen htable (h ch)
  have hmono : e.mono = 0 := by simp [Engine.mono_eq, hsig]
  have hleft : e.left = 0 := by simp [Engine.left_eq, hsig]
  have hright : e.right = 0 := by simp [Engine.right_eq, hsig]
  rw [Engine.mix, hmono, hleft, hright]

/-! The first tick -/

/-- A count of 0, which a reset leaves, runs out on the first tick (R35, R111). -/
theorem Engine.AtReset.tick_tone {e : Engine} (h : e.AtReset) (c : ToneId) :
    (e.tick.tone c).counter = e.effPeriod c ∧ (e.tick.tone c).output = true := by
  have hunderflow := e.ticks_tone_underflow c
  rw [h.toneCounter c, h.toneOut c] at hunderflow
  have htick : e.tick.tone c = { e.tone c with counter := e.effPeriod c, output := true } := hunderflow
  rw [htick]
  exact ⟨rfl, rfl⟩

/-- Reset selects the noise rate 0 (R35, R130). -/
theorem Engine.AtReset.noiseDivOf_eq {e : Engine} (h : e.AtReset) :
    noiseDivOf e.cfg (noiseRate e.noise.control).toNat = some e.cfg.noiseDiv0 := by
  have hcontrol : e.noise.control = 0 := (setWidth_inj_of_le (by decide)).mp h.noiseControl
  rw [hcontrol]
  rfl

/-- The first tick after reset shifts the noise register and reloads its counter (R135). -/
theorem Engine.AtReset.tick_noise {e : Engine} (h : e.AtReset) :
    e.tick.noise = { noiseShift e.cfg e.noise with counter := noiseReload e.cfg.noiseDiv0 } := by
  rw [Engine.tick_noise, noiseTick_of_div h.noiseDivOf_eq]
  rcases noiseCount_cases e.cfg e.cfg.noiseDiv0 e.noise with ⟨-, hc⟩ | ⟨hgt, -⟩
  · exact hc
  · have hzero := h.noiseCounter
    omega

/-- Settles O40: silence holds at reset, every step but the named write keeps it, and a silenced engine mixes to 0; the
counts of 0 that reset leaves all run out on the first tick. -/
theorem silentAfterReset : Obligations.SilentAfterReset := by
  refine ⟨fun _ h => h.silenced, fun _ _ _ => step_silenced, fun e h htable => ?_, fun e h => ⟨h.tick_tone, ?_⟩⟩
  · have hmix := Engine.Silenced.mix h htable
    exact ⟨fun hst => by rw [hmix, if_pos hst], fun hst => by rw [hmix, hst]; rfl⟩
  · rw [h.tick_noise]
    exact ⟨rfl, noiseReload_of_le⟩

end Sys2Proof.Machine
end
